-- ==== Sys2Proof/Word.lean ====
section
/-! DEFINITION. The words of the TDP-8: the byte of the Message Link and the 16-bit tag. -/

namespace Sys2Proof

/-- A byte of the link (R175). -/
abbrev Byte := BitVec 8

/-- A 16-bit field of the record header (R176). -/
abbrev Word16 := BitVec 16

/-- A 32-bit set of notice kinds, bit n for the kind of code n (R198). -/
abbrev KindSet := BitVec 32

end Sys2Proof
end

