-- ==== Sys2Proof/Syntax.lean ====
section
/-! DEFINITION. The commands the TDP-8 takes: one constructor for each row of spec/opcode_table.json. -/

namespace Sys2Proof

/-- What a request record carries beside its kind: job field, flags, tag and body (R176). -/
structure Req where
  job : Byte
  flags : Byte
  tag : Word16
  body : List Byte
  deriving DecidableEq, Repr

/-- The commands. A request row is a whole request record of that kind reaching the part (assumption 3);
the other rows are the events of the link, of the lines and of the outbound store. -/
inductive Instr where
  /-- Open Job (R22). -/
  | jopn (r : Req)
  /-- Define Track (R42). -/
  | tdef (r : Req)
  /-- Set Lane (R82). -/
  | lset (r : Req)
  /-- Set Detector (R109). -/
  | dset (r : Req)
  /-- Set Ducking (R133). -/
  | duck (r : Req)
  /-- Start Job (R24). -/
  | jgo (r : Req)
  /-- Set Anchor (R27). -/
  | anch (r : Req)
  /-- Hold Job (R29). -/
  | hold (r : Req)
  /-- Resume Job (R32). -/
  | rsum (r : Req)
  /-- Finish Job (R34). -/
  | fin (r : Req)
  /-- Abort Job (R37). -/
  | abrt (r : Req)
  /-- Release Slot (R36). -/
  | rls (r : Req)
  /-- Query Job (R39). -/
  | jqry (r : Req)
  /-- Query Gaps (R130). -/
  | gqry (r : Req)
  /-- Query Device (R40). -/
  | dqry (r : Req)
  /-- Put Cue (R49). -/
  | cue (r : Req)
  /-- Revoke Cue (R58). -/
  | crev (r : Req)
  /-- Put Clip (R137). -/
  | clip (r : Req)
  /-- Revoke Clip (R143). -/
  | krev (r : Req)
  /-- Put Levels (R112). -/
  | lvl (r : Req)
  /-- Advance (R15). -/
  | adv (r : Req)
  /-- Park Job (R162). -/
  | park (r : Req)
  /-- Unpack Context (R170). -/
  | unpk (r : Req)
  /-- Clear Notices (R193). -/
  | nclr (r : Req)
  /-- Set Notice Enables (R194). -/
  | nset (r : Req)
  /-- Reset Device (R184). -/
  | drst (r : Req)
  /-- A record of an unassigned or output kind (R180). -/
  | unknownKind (kind : Byte) (r : Req)
  /-- A character ends on RXD: its eight data bits and the level sampled in the stop position (R175, R177). -/
  | characterReceived (b : Byte) (stopHigh : Bool)
  /-- More than 1 ms passes without the start bit of the next character (R178). -/
  | linkTimeout
  /-- RXD has been low for 2 character times (R185). -/
  | shortBreak
  /-- RXD has been low for 10 ms (R186). -/
  | longBreak
  /-- The server drives RDY_IN to the given level (R183). -/
  | rdyInChange (level : Bool)
  /-- RESET_N falls (R187). -/
  | resetNLow
  /-- RESET_N rises (R187). -/
  | resetNRise
  /-- Power-on initialisation ends (R187). -/
  | initialisationEnd
  /-- The last check byte of the record being sent leaves TXD (R183). -/
  | recordTransmitted
  /-- Room comes to a waiting segment record (R69, R182). -/
  | segmentRecordPlace
  /-- Room comes to a waiting lane batch (R95, R182). -/
  | laneBatchPlace
  /-- Room comes to a waiting CLOSING record (R105, R182). -/
  | closingFramesPlace
  /-- Room comes to a waiting RESET record of an aborted job (R106, R182). -/
  | resetFramesPlace
  /-- Room comes to a waiting CTXP part (R167, R182). -/
  | ctxpPartPlace
  /-- Room comes to a waiting NOTE (R192, R182). -/
  | notePlace
  /-- RXD is seen high again after a low that began in a stop-bit position (R178, R185). -/
  | rxdReturnsHigh
  deriving DecidableEq, Repr

end Sys2Proof
end

