-- ==== Sys2Proof/Config.lean ====
section
/-! DEFINITION. What the TDP-8 fixes once for all runs: capacities and limits the manual states, and the one
value it leaves open. -/

namespace Sys2Proof.Config

/-- The cue entry pool (R44). -/
def cuePool : Nat := 4096
/-- The text block pool (R44). -/
def blockPool : Nat := 8192
/-- The clip entry pool (R134). -/
def clipPool : Nat := 1024
/-- The inbound queue holds up to this many records (R179). -/
def inboundSize : Nat := 32
/-- The outbound store holds up to this many records (R181). -/
def storeSize : Nat := 64
/-- The entries only a reply may take (R181). -/
def reserve : Nat := 8
/-- The latch holds up to this many records (R31). -/
def latchSize : Nat := 16
/-- The Gap List holds up to this many records (R125). -/
def gapListSize : Nat := 64
/-- A DESC track holds at most this many live clips (R134). -/
def clipsPerTrack : Nat := 64
/-- A DESC track holds at most this many breakpoints (R152). -/
def breakpointsPerTrack : Nat := 256
/-- A FULL context carries at most this many cue entries and this many clip entries (R162). -/
def contextEntries : Nat := 64
/-- A record's body holds at most this many bytes (R176). -/
def bodyMax : Nat := 1024
/-- The least and the most frames of a lane batch outside finishing (R93). -/
def batchMin : Nat := 32
def batchMax : Nat := 128
/-- Samples in an analysis window (R11). -/
def window : Nat := 960

/-- FREE VALUE (assumption 14): what a count of an LVL reply reads as when it does not fit its four bytes. R112
counts every window discarded beyond the span, hole windows included, and R197 gives the count four bytes; for the
largest first window index the count can pass 4,294,967,295, and the manual states no value there. -/
opaque lvlCountOverflow : Nat → BitVec 32

end Sys2Proof.Config
end

