-- ==== Sys2Proof/WellFormed.lean ====
section
/-! DEFINITION. When a command is one the link can carry: the limits the record frame sets (R176, R180). -/

namespace Sys2Proof

/-- The kind codes of requests (the table of 11.2). Every other code is answered UNKNOWN_KIND (R180). -/
def requestCodes : List Nat :=
  [0x01, 0x02, 0x03, 0x04, 0x05, 0x06, 0x07, 0x08, 0x09, 0x0A, 0x0B, 0x0C, 0x0D, 0x0E,
   0x10, 0x11, 0x12, 0x13, 0x14, 0x15, 0x18, 0x19, 0x1C, 0x1D, 0x20, 0x21]

/-- A record's body length is 0 to 1,024 (R176). -/
def Req.wf (r : Req) : Bool := decide (r.body.length ≤ Config.bodyMax)

/-- Well formed: every request's body fits a record, and UNKNOWN_KIND carries a kind that is no request's. -/
def Instr.wf : Instr → Bool
  | .jopn r | .tdef r | .lset r | .dset r | .duck r | .jgo r | .anch r | .hold r | .rsum r | .fin r => r.wf
  | .abrt r | .rls r | .jqry r | .gqry r | .dqry r | .cue r | .crev r | .clip r | .krev r | .lvl r => r.wf
  | .adv r | .park r | .unpk r | .nclr r | .nset r | .drst r => r.wf
  | .unknownKind kind r => r.wf && !requestCodes.contains kind.toNat
  | .characterReceived _ _ | .linkTimeout | .shortBreak | .longBreak | .rdyInChange _ => true
  | .resetNLow | .resetNRise | .initialisationEnd | .recordTransmitted => true
  | .segmentRecordPlace | .laneBatchPlace | .closingFramesPlace | .resetFramesPlace => true
  | .ctxpPartPlace | .notePlace | .rxdReturnsHigh => true

end Sys2Proof
end

