-- ==== Sys2Proof/Decode.lean ====
section
/-! DEFINITION. Byte order, kind codes and the check of a record (R176, R195), and the word decoder the host asks
for. No row of spec/opcode_table.json gives bits, so no word spells a command. -/

namespace Sys2Proof

/-- The command a word spells by the table's bits: the table gives no row any bits. -/
def decodeTableWord (_nbits _w : Nat) : Option Instr := none

/-- The number a byte sequence spells, most significant byte first (R176). -/
def natOfBytes (bs : List Byte) : Nat := bs.foldl (fun acc b => acc * 256 + b.toNat) 0

/-- The k low-order bytes of n, most significant byte first (R176). -/
def beBytes : Nat → Nat → List Byte
  | 0, _ => []
  | k + 1, n => BitVec.ofNat 8 (n / 256 ^ k) :: beBytes k n

/-- The field of len bytes at an offset of a body. -/
def field (bs : List Byte) (off len : Nat) : Nat := natOfBytes ((bs.drop off).take len)

/-- The absent value of a field of k bytes: all ones (R197). -/
def absentBytes (k : Nat) : List Byte := List.replicate k 0xFF#8

/-- An optional field, absent reading all ones (R197). -/
def optBytes (k : Nat) : Option Nat → List Byte
  | some n => beBytes k n
  | none => absentBytes k

/-- A flag byte: 0 or 1. -/
def flagByte (b : Bool) : Byte := if b then 1#8 else 0#8

/-- The request kinds (the table of 11.2). -/
inductive Kind where
  | jopn | tdef | lset | dset | duck | jgo | anch | hold | rsum | fin | abrt | rls | jqry | gqry
  | cue | crev | clip | krev | lvl | adv | park | unpk | nclr | nset | dqry | drst
  deriving DecidableEq, Repr

/-- The code of a request kind (11.2). -/
def Kind.code : Kind → Byte
  | .jopn => 0x01#8 | .tdef => 0x02#8 | .lset => 0x03#8 | .dset => 0x04#8 | .duck => 0x05#8 | .jgo => 0x06#8
  | .anch => 0x07#8 | .hold => 0x08#8 | .rsum => 0x09#8 | .fin => 0x0A#8 | .abrt => 0x0B#8 | .rls => 0x0C#8
  | .jqry => 0x0D#8 | .gqry => 0x0E#8 | .cue => 0x10#8 | .crev => 0x11#8 | .clip => 0x12#8 | .krev => 0x13#8
  | .lvl => 0x14#8 | .adv => 0x15#8 | .park => 0x18#8 | .unpk => 0x19#8 | .nclr => 0x1C#8 | .nset => 0x1D#8
  | .dqry => 0x20#8 | .drst => 0x21#8

/-- The request kind a code names; every other code is none (R180, 11.2). -/
def Kind.ofCode (b : Byte) : Option Kind :=
  match b.toNat with
  | 0x01 => some .jopn | 0x02 => some .tdef | 0x03 => some .lset | 0x04 => some .dset | 0x05 => some .duck
  | 0x06 => some .jgo | 0x07 => some .anch | 0x08 => some .hold | 0x09 => some .rsum | 0x0A => some .fin
  | 0x0B => some .abrt | 0x0C => some .rls | 0x0D => some .jqry | 0x0E => some .gqry | 0x10 => some .cue
  | 0x11 => some .crev | 0x12 => some .clip | 0x13 => some .krev | 0x14 => some .lvl | 0x15 => some .adv
  | 0x18 => some .park | 0x19 => some .unpk | 0x1C => some .nclr | 0x1D => some .nset | 0x20 => some .dqry
  | 0x21 => some .drst
  | _ => none

/-- One bit of the check: feedback is the register's top bit exclusive-or the data bit, then a shift, then the
polynomial 1021h when the feedback is 1 (R195). -/
def crcBit (reg : BitVec 16) (bit : Bool) : BitVec 16 :=
  let shifted := reg <<< 1
  if reg.getLsbD 15 != bit then shifted ^^^ 0x1021#16 else shifted

/-- One byte of the check, most significant bit first (R195). -/
def crcByte (reg : BitVec 16) (b : Byte) : BitVec 16 :=
  [7, 6, 5, 4, 3, 2, 1, 0].foldl (fun r i => crcBit r (b.getLsbD i)) reg

/-- The check of a byte sequence: the register starts at FFFFh (R195). -/
def crc (bs : List Byte) : BitVec 16 := bs.foldl crcByte 0xFFFF#16

/-- The two bytes of a check, high byte first (R176). -/
def checkBytes (bs : List Byte) : List Byte := beBytes 2 (crc bs).toNat

end Sys2Proof
end

