-- ==== Sys2Proof/Machine/State.lean ====
section
/-! DEFINITION. The state of the part as plain data: the job table and what each job holds, the link, the outbound
store, the notices, and the queue of waiting commands. -/

namespace Sys2Proof.Machine

/-- Why a step stops with a fault. The manual gives the part no fault that stops it: every link error abandons a
record and counts an alert (R178, R179), every refusal is a reply status (R197). So there is no constructor. -/
inductive Fault where
  deriving DecidableEq, Repr

/-- Why a step answers no state. -/
inductive Refusal where
  /-- A command whose meaning is not written yet. Raised by no arm of this model. Safe. -/
  | notModelled (mnemonic : String)
  deriving DecidableEq, Repr

/-- A record of the link: kind, job, flags, tag, body (R176). Marker and check are added on the line. -/
structure LinkRecord where
  kind : Byte
  job : Byte
  flags : Byte
  tag : Word16
  body : List Byte
  deriving DecidableEq, Repr

/-! ### Cues, clips and tracks -/

/-- Where a cue is shown (R46). -/
inductive Region where
  | bottom | top
  deriving DecidableEq, Repr

/-- A cue's lane state (R47, R91). `off` is "not on lane". -/
inductive LaneMark where
  | off | waiting | loading | shown | done | skipped
  deriving DecidableEq, Repr

/-- A timed cue entry (R47). -/
structure Cue where
  id : Nat
  region : Region
  text : List Byte
  laneText : Option (List Byte)
  startF : Nat
  endF : Nat
  clipped : Bool
  stretched : Bool
  clamped : Bool
  lane : LaneMark
  arrival : Nat
  deriving DecidableEq, Repr

/-- A clip's state (R136). -/
inductive ClipState where
  | pending | placed | overlaid | dropped
  deriving DecidableEq, Repr

/-- A timed clip entry (R136). Depths are gains in quarter-dB, 0 or negative. -/
structure Clip where
  id : Nat
  ref : Nat
  dur : Nat
  depthOv : Option Int
  d : Nat
  l : Nat
  state : ClipState
  start : Option Nat
  depth : Option Int
  gap : Option Nat
  release : Option Nat
  arrival : Nat
  deriving DecidableEq, Repr

/-- A cue held untimed in ANCHOR_WAIT, with its source times (R26, R47). -/
structure UntimedCue where
  track : Fin 16
  id : Nat
  startMs : Nat
  endMs : Nat
  region : Region
  text : List Byte
  laneText : Option (List Byte)
  arrival : Nat
  deriving DecidableEq, Repr

/-- A clip held untimed in ANCHOR_WAIT, with its source times (R26, R136). -/
structure UntimedClip where
  track : Fin 16
  id : Nat
  ref : Nat
  startMs : Nat
  latestMs : Nat
  dur : Nat
  depthOv : Option Int
  arrival : Nat
  deriving DecidableEq, Repr

/-- An entry of the untimed list (R26). -/
inductive Untimed where
  | cue (c : UntimedCue)
  | clip (c : UntimedClip)
  deriving DecidableEq, Repr

/-- What becomes of a clip that fits no gap (R132). -/
inductive Policy where
  | duckOver | drop
  deriving DecidableEq, Repr

/-- A ducking record (R132). Depths are gains in quarter-dB, lengths are samples. -/
structure Ducking where
  depth : Int
  extra : Int
  rampDown : Nat
  rampUp : Nat
  mergeGap : Nat
  lead : Nat
  tail : Nat
  spacing : Nat
  policy : Policy
  deriving DecidableEq, Repr

/-- The default ducking record (R132). -/
def Ducking.default : Ducking :=
  { depth := -48, extra := -24, rampDown := 9600, rampUp := 14400, mergeGap := 24000, lead := 4800, tail := 4800,
    spacing := 9600, policy := .duckOver }

/-- A breakpoint of an envelope, and the base point: a sample position and a gain (R152). -/
structure Breakpoint where
  pos : Nat
  gain : Int
  deriving DecidableEq, Repr

/-- The end and depth of the last clip made PLACED or OVERLAID on a track (R145). -/
structure PrevClip where
  endS : Nat
  depth : Int
  deriving DecidableEq, Repr

/-- The state of the previous clip's release (R145, R155). -/
inductive TailState where
  | none | tentative | final
  deriving DecidableEq, Repr

/-- A TEXT track: its settings (R41) and its cue list (R48). -/
structure TextTrack where
  language : List Byte
  segOut : Bool
  service : Nat
  cues : List Cue
  deriving DecidableEq, Repr

/-- A DESC track: its settings (R41, R132), its clip lists (R141, R145) and its envelope (R152). -/
structure DescTrack where
  language : List Byte
  segOut : Bool
  duck : Ducking
  pending : List Clip
  placed : List Clip
  prev : Option PrevClip
  tailState : TailState
  points : List Breakpoint
  base : Breakpoint
  deriving DecidableEq, Repr

/-- A place of the track table that holds a track (R41). -/
inductive Track where
  | text (t : TextTrack)
  | desc (t : DescTrack)
  deriving DecidableEq, Repr

/-! ### The parts of a job record -/

/-- The timebase (R1). -/
structure Timebase where
  num : Nat
  den : Nat
  span : Nat
  anchor : Option Nat
  deriving DecidableEq, Repr

/-- The parity of lane symbols (R85). -/
inductive Parity where
  | odd | even | none
  deriving DecidableEq, Repr

/-- Lane settings (R81). -/
structure LaneSettings where
  enabled : Bool
  symbols : Nat
  lookahead : Nat
  parity : Parity
  subst : Nat
  deriving DecidableEq, Repr

/-- The default lane settings (R81). -/
def LaneSettings.default : LaneSettings :=
  { enabled := false, symbols := 2, lookahead := 120, parity := .odd, subst := 0x3F }

/-- Detector settings (R108). Bit i of a mask stands for threshold i. -/
structure DetSettings where
  thresholds : List Nat
  sampleMask : Byte
  debounceMask : Byte
  speech : Nat
  gapDebounce : Nat
  speechDebounce : Nat
  mixedRestart : Bool
  holeLimit : Nat
  deriving DecidableEq, Repr

/-- The default detector settings (R108). -/
def DetSettings.default : DetSettings :=
  { thresholds := [135, 145, 155, 165, 175, 185, 195, 205], sampleMask := 0xFF#8, debounceMask := 0x1C#8,
    speech := 4, gapDebounce := 15, speechDebounce := 3, mixedRestart := true, holeLimit := 25 }

/-- A segment emission in flight: its segment and the records still to place (R64, R68). -/
structure SegFlight where
  index : Nat
  startF : Nat
  endF : Nat
  todo : List LinkRecord
  deriving DecidableEq, Repr

/-- The Segmenter's items (R64) and whether its next record waits for room (R182). -/
structure Segmenter where
  next : Nat
  emitted : Nat
  flight : Option SegFlight
  wait : Bool
  deriving DecidableEq, Repr

/-- A displayed caption: its cue id and end frame (R90). -/
structure Shown where
  id : Nat
  endF : Nat
  deriving DecidableEq, Repr

/-- A loading caption: its cue id and the index of its next step, none once it is loaded (R90). -/
structure Loading where
  id : Nat
  step : Option Nat
  deriving DecidableEq, Repr

/-- A service record (R90). Its pending captions are the WAITING cues of its track in list order (R90, R166). -/
structure Service where
  displayed : Option Shown
  loading : Option Loading
  deriving DecidableEq, Repr

/-- One caption's lane state as a batch leaves it: service, cue id, state (R95). -/
structure LaneChange where
  service : Nat
  id : Nat
  mark : LaneMark
  deriving DecidableEq, Repr

/-- The lane state a batch decides at its beginning and takes at its completion (R95, R96). -/
structure LaneOutcome where
  current : Nat
  services : List Service
  changes : List LaneChange
  late : Nat
  skipped : Nat
  deriving DecidableEq, Repr

/-- The three kinds of LANE record (11.7). -/
inductive LaneKind where
  | batch | closing | reset
  deriving DecidableEq, Repr

/-- A LANE record decided and not yet placed (R95, R105, R106). -/
structure LaneFlight where
  kind : LaneKind
  frames : Nat
  record : LinkRecord
  outcome : LaneOutcome
  deriving DecidableEq, Repr

/-- The Caption Lane Scheduler's items: next lane frame (R93), current text service, 0 for none (R90), the four
service records (R90), the record in flight, whether it waits for room (R182), and whether the lane's part of the
job's finishing is complete (R105). -/
structure Lane where
  next : Nat
  current : Nat
  services : List Service
  flight : Option LaneFlight
  wait : Bool
  closed : Bool
  deriving DecidableEq, Repr

/-- The Level Classifier's items (R111). -/
structure Classifier where
  horizon : Nat
  levelsSeen : Bool
  lastVector : Option Byte
  prevMasked : Option Byte
  deriving DecidableEq, Repr

/-- The detector state (R119). -/
inductive DetState where
  | unsettled | speech | gapWait | gap | speechWait
  deriving DecidableEq, Repr

/-- The Gap Detector's items (R119). -/
structure Detector where
  state : DetState
  quietCount : Nat
  quietStart : Option Nat
  runMixed : Nat
  loudCount : Nat
  loudStart : Option Nat
  recorded : Bool
  nextGap : Nat
  deriving DecidableEq, Repr

/-- A gap record (R125). -/
structure Gap where
  num : Nat
  start : Nat
  endS : Option Nat
  mixed : Nat
  placements : Nat
  deriving DecidableEq, Repr

/-- A claimant's counts, enables, pending NOTE, whether that NOTE waits for room, and note number
(R188, R189, R191, R192). -/
structure Notices where
  counts : List Nat
  enables : KindSet
  pending : Bool
  wait : Bool
  number : Word16
  deriving DecidableEq, Repr

/-- The two context forms (R164). -/
inductive Form where
  | short | full
  deriving DecidableEq, Repr

/-- A park in flight (R163, R167, R168). -/
structure ParkFlight where
  serial : Word16
  form : Form
  parts : Nat
  placed : Nat
  todo : List LinkRecord
  discarded : Nat
  wait : Bool
  deriving DecidableEq, Repr

/-- The states of a slot that holds a job (R18, R20). -/
inductive JobState where
  | opened | anchorWait | running | holding | held | parking | finishing | done
  deriving DecidableEq, Repr

/-- The producers of a job, in rotation order (R182). -/
inductive Producer where
  | segmenter | lane | context | notice
  deriving DecidableEq, Repr

/-- A job record (R18) with the per-job state of every block. -/
structure Job where
  state : JobState
  tb : Timebase
  segLen : Nat
  cueQuota : Nat
  clipQuota : Nat
  tracks : Vector (Option Track) 16
  laneSet : LaneSettings
  det : DetSettings
  w : Option Nat
  e : Option Nat
  untimed : List Untimed
  latch : List LinkRecord
  nextArrival : Nat
  seg : Segmenter
  lane : Lane
  cls : Classifier
  gd : Detector
  gaps : List Gap
  notices : Notices
  park : Option ParkFlight
  lastProducer : Producer
  deriving DecidableEq, Repr

/-- The assembly record of a RESTORING slot (R161). -/
structure Assembly where
  serial : Word16
  form : Form
  parts : Nat
  next : Nat
  cues : Nat
  blocks : Nat
  clips : Nat
  bytes : List Byte
  deriving DecidableEq, Repr

/-- An entry of the job table (R18). -/
inductive Slot where
  | free
  | restoring (a : Assembly)
  | job (b : Job)
  deriving DecidableEq, Repr

/-! ### The link -/

/-- RESET_N: low, initialising after its rise, or running (R187). -/
inductive Phase where
  | low | init | run
  deriving DecidableEq, Repr

/-- RXD as the framer sees it: high; low since a missing stop bit that is not yet judged (R178); or in the silence
of a break, with its 10 ms reset taken or not (R185, R186). -/
inductive RxLine where
  | high
  | stopLow
  | silence (longTaken : Bool)
  deriving DecidableEq, Repr

/-- The receive framer (R177): the header bytes begun; the header, the body length and the body bytes begun; the
header, the body and the first check byte if received. -/
inductive Framer where
  | hunt
  | header (got : List Byte)
  | body (head : List Byte) (len : Nat) (got : List Byte)
  | check (head : List Byte) (got : List Byte) (first : Option Byte)
  deriving DecidableEq, Repr

/-- The classes of outbound records (R181), output records apart from a job's NOTE. -/
inductive OutClass where
  | reply | alert | output | note
  deriving DecidableEq, Repr

/-- An entry of the outbound store (R181): the record, its class, the slot of the live job it belongs to, whether it
is an unfinished PARK reply (R163) and whether it is CTXP part n (R168). -/
structure OutEntry where
  record : LinkRecord
  cls : OutClass
  owner : Option (Fin 8)
  unfinished : Bool
  lastPart : Bool
  deriving DecidableEq, Repr

/-- The record on TXD: its entry, whether that entry is still occupied (a device reset empties the store while the
record is sent to its end, R184), and the bytes of the frame (R176). -/
structure Tx where
  entry : OutEntry
  holds : Bool
  wire : List Byte
  deriving DecidableEq, Repr

/-- An ABRT that waits to place its reset frames (R37, R180): its slot, the request, and what its reply carries. -/
structure AbortWait where
  slot : Fin 8
  request : LinkRecord
  was : JobState
  discarded : Nat
  deriving DecidableEq, Repr

/-- The state of the part. -/
structure State where
  pending : List Instr
  slots : Vector Slot 8
  phase : Phase
  rdyIn : Bool
  rx : RxLine
  framer : Framer
  inbound : List LinkRecord
  store : List OutEntry
  tx : Option Tx
  lastClaimant : Fin 9
  roomDue : Bool
  abort : Option AbortWait
  parkSerial : Word16
  device : Notices
  deriving DecidableEq, Repr

/-- The device's notices after a reset: six counts of 0, the six alerts enabled, no NOTE (R188, R189, R192). -/
def Notices.device : Notices :=
  { counts := [0, 0, 0, 0, 0, 0], enables := 0x3F000000#32, pending := false, wait := false, number := 0#16 }

/-- Right after reset: the power-on state of R187 at the end of initialisation (assumption 1), RDY_IN taken as
deasserted (assumption 2). -/
def State.reset : State :=
  { pending := []
    slots := #v[.free, .free, .free, .free, .free, .free, .free, .free]
    phase := .run
    rdyIn := false
    rx := .high
    framer := .hunt
    inbound := []
    store := []
    tx := none
    lastClaimant := 8
    roomDue := false
    abort := none
    parkSerial := 0#16
    device := Notices.device }

end Sys2Proof.Machine
end

