-- ==== Sys2Proof/Machine/Flags.lean ====
section
/-! DEFINITION. Reply statuses (11.3), state codes (R197) and the notice counts: what counting an occurrence,
clearing and the stall source do (R188 to R194, R198). -/

namespace Sys2Proof.Machine

/-- The reply statuses (11.3). -/
inductive Status where
  | ok | clamped | clipped | latched
  | badState | badField | badTrack | noAnchor | late | behind | duplicate | notFound | quotaFull | poolFull
  | trackFull | busy | tooLarge | badContext | beyondSpan | aborted | unknownKind | tooLate
  deriving DecidableEq, Repr

/-- The code of a status (11.3). -/
def Status.code : Status → Byte
  | .ok => 0#8 | .clamped => 1#8 | .clipped => 2#8 | .latched => 3#8
  | .badState => 16#8 | .badField => 17#8 | .badTrack => 18#8 | .noAnchor => 19#8 | .late => 20#8 | .behind => 21#8
  | .duplicate => 22#8 | .notFound => 23#8 | .quotaFull => 24#8 | .poolFull => 25#8 | .trackFull => 26#8
  | .busy => 27#8 | .tooLarge => 28#8 | .badContext => 29#8 | .beyondSpan => 30#8 | .aborted => 31#8
  | .unknownKind => 32#8 | .tooLate => 33#8

/-- Codes from 16 upward are refusals (11.3, R33). -/
def Status.refuses (st : Status) : Bool := decide (16 ≤ st.code.toNat)

/-- The code of a slot state (R197). RESTORING is 7 and FREE is 0. -/
def JobState.code : JobState → Nat
  | .opened => 1 | .anchorWait => 2 | .running => 3 | .holding => 4 | .held => 5 | .parking => 6 | .finishing => 8
  | .done => 9

/-- The code of an entry of the job table (R197). -/
def Slot.code : Slot → Nat
  | .free => 0
  | .restoring _ => 7
  | .job b => b.state.code

/-- The code of a detector state (R197). -/
def DetState.code : DetState → Nat
  | .unsettled => 0 | .speech => 1 | .gapWait => 2 | .gap => 3 | .speechWait => 4

/-- The EVENT kinds, in kind order (R198). -/
inductive Event where
  | cueClipped | laneLate | laneSkipped | laneTruncated | levelFirst | levelFilled | levelLost | gapOpened | gapClosed
  | gapListFull | clipPlaced | clipOverlaid | clipDropped | latchRefused | held | finished | outputStalled
  deriving DecidableEq, Repr

/-- The code of an EVENT kind, 0 to 16 (R198). -/
def Event.code : Event → Nat
  | .cueClipped => 0 | .laneLate => 1 | .laneSkipped => 2 | .laneTruncated => 3 | .levelFirst => 4 | .levelFilled => 5
  | .levelLost => 6 | .gapOpened => 7 | .gapClosed => 8 | .gapListFull => 9 | .clipPlaced => 10 | .clipOverlaid => 11
  | .clipDropped => 12 | .latchRefused => 13 | .held => 14 | .finished => 15 | .outputStalled => 16

/-- The ALERT kinds, in kind order (R198). -/
inductive Alert where
  | framing | length | check | timeout | overrun | poolExhausted
  deriving DecidableEq, Repr

/-- The place of an ALERT kind among the device's counts; its code is 24 more (R198). -/
def Alert.index : Alert → Nat
  | .framing => 0 | .length => 1 | .check => 2 | .timeout => 3 | .overrun => 4 | .poolExhausted => 5

/-- The first code of the EVENT kinds and of the ALERT kinds (R198). -/
def eventBase : Nat := 0
def alertBase : Nat := 24

/-- The sets of all EVENT kinds and of all ALERT kinds (R198). -/
def eventSet : KindSet := 0x0001FFFF#32
def alertSet : KindSet := 0x3F000000#32

/-- The enables JOPN gives: HELD, FINISHED, LANE_SKIPPED, CLIP_DROPPED and LATCH_REFUSED (R189). -/
def defaultEnables : KindSet := 0x0000F004#32

/-- The notices of a new job (R188, R189, R192). -/
def Notices.opened (enables : KindSet) : Notices :=
  { counts := List.replicate 17 0, enables := enables, pending := false, wait := false, number := 0#16 }

/-- Counting n occurrences of kind i: the count rises and stops at 255 (R188); when the count of an enabled kind
leaves 0, the claimant has a pending NOTE (R191). -/
def Notices.report (base i n : Nat) (x : Notices) : Notices :=
  let old := x.counts.getD i 0
  let new := min 255 (old + n)
  { x with
    counts := x.counts.set i new
    pending := x.pending || (old == 0 && new != 0 && x.enables.getLsbD (base + i)) }

/-- The kinds of a claimant: the positions of its counts. -/
def Notices.kinds (x : Notices) : List Nat := List.range x.counts.length

/-- Clearing the kinds of a set (R193). -/
def Notices.clear (base : Nat) (set : KindSet) (x : Notices) : Notices :=
  { x with counts := (x.counts.zip x.kinds).map fun p => if set.getLsbD (base + p.2) then 0 else p.1 }

/-- The count bytes of the kinds of a set, in kind order (R193, R197). -/
def Notices.countBytes (base : Nat) (set : KindSet) (x : Notices) : List Byte :=
  ((x.counts.zip x.kinds).filter fun p => set.getLsbD (base + p.2)).map fun p => BitVec.ofNat 8 p.1

/-- The entries of a NOTE: the kinds whose count is not 0, in kind order, each with its count and enable (R192). -/
def Notices.entries (base : Nat) (x : Notices) : List (List Byte) :=
  ((x.counts.zip x.kinds).filter fun p => p.1 != 0).map fun p =>
    [BitVec.ofNat 8 (base + p.2), BitVec.ofNat 8 p.1, flagByte (x.enables.getLsbD (base + p.2))]

/-- The body of a NOTE (R192, R198): class, entry count, entries. -/
def Notices.noteBody (base : Nat) (x : Notices) : List Byte :=
  [if base = eventBase then 0#8 else 1#8, BitVec.ofNat 8 (x.entries base).length] ++ (x.entries base).flatten

/-- A NOTE has been placed: none pending, and the note number rises modulo 65,536 (R192). -/
def Notices.placed (x : Notices) : Notices := { x with pending := false, wait := false, number := x.number + 1#16 }

/-- A pending NOTE is withdrawn (R192). -/
def Notices.withdrawn (x : Notices) : Notices := { x with pending := false, wait := false }

/-- An occurrence of an EVENT kind at a job, n times. -/
def Job.report (k : Event) (n : Nat) (b : Job) : Job := { b with notices := b.notices.report eventBase k.code n }

/-- An occurrence counted once when a condition holds. -/
def Job.reportIf (c : Bool) (k : Event) (b : Job) : Job := if c then b.report k 1 else b

/-- The stall source: a Segmenter, lane or context record waits for room (R190). -/
def Job.stalled (b : Job) : Bool :=
  b.seg.wait || b.lane.wait || (match b.park with | some p => p.wait | none => false)

/-- The change from b to b' counts OUTPUT_STALLED once when the source goes from inactive to active (R190). -/
def Job.countStall (before after : Job) : Job := after.reportIf (!before.stalled && after.stalled) .outputStalled

/-- An occurrence of an ALERT kind at the device. -/
def State.alert (k : Alert) (s : State) : State := { s with device := s.device.report alertBase k.index 1 }

end Sys2Proof.Machine
end

