-- ==== Sys2Proof/Machine/Operands.lean ====
section
/-! DEFINITION. The operand forms of the requests: the body of each request kind read into its fields, the ranges its
entry gives them, and the body a set of fields is sent as (R196). A body that `parse` refuses is answered BAD_FIELD. -/

namespace Sys2Proof.Machine

/-- A field present when its presence bit is set; an absent field's bytes are ignored (R196). -/
def present (mask bit : Nat) (v : Nat) : Option Nat := if mask.testBit bit then some v else none

/-- The bytes of an optional field: zeros when it is absent. -/
def sent (k : Nat) (v : Option Nat) : List Byte := beBytes k (v.getD 0)

/-- A presence mask of the given fields, the first at bit 0 (R196). -/
def presence : List Bool → Nat
  | [] => 0
  | b :: bs => (if b then 1 else 0) + 2 * presence bs

/-- A number within bounds. -/
def within (lo hi n : Nat) : Bool := decide (lo ≤ n) && decide (n ≤ hi)

/-- An optional number within bounds when present. -/
def optWithin (lo hi : Nat) : Option Nat → Bool
  | some n => within lo hi n
  | none => true

/-- A request without a body: HOLD, RSUM, ABRT, RLS, PARK, JQRY, DQRY, DRST (R196). -/
def parseEmpty (body : List Byte) : Option Unit := if body.isEmpty then some () else none

/-- A request of one four-byte field: ANCH, ADV, FIN, NCLR, NSET (R196). -/
def parseWord (body : List Byte) : Option Nat := if body.length = 4 then some (field body 0 4) else none

/-- The rate test (R2): exact products, no division. -/
def rateOk (num den : Nat) : Bool :=
  within 1 1001 den && decide (num ≤ 240000) && decide (10 * den ≤ num) && decide (num ≤ 120 * den)

/-- The fields of JOPN (R22). -/
structure JopnFields where
  num : Nat
  den : Nat
  segLen : Nat
  cueQuota : Option Nat
  clipQuota : Option Nat
  span : Option Nat
  deriving DecidableEq, Repr

/-- The field ranges of R22 (with R2 and R3). -/
def JopnFields.valid (f : JopnFields) : Bool :=
  rateOk f.num f.den && within 8 720 f.segLen && optWithin 16 4096 f.cueQuota && optWithin 4 1024 f.clipQuota &&
    f.span != some 0

/-- JOPN's body, 17 bytes (R196). -/
def parseJopn (body : List Byte) : Option JopnFields :=
  let p := field body 0 1
  let f : JopnFields :=
    { num := field body 1 4, den := field body 5 2, segLen := field body 7 2,
      cueQuota := present p 0 (field body 9 2), clipQuota := present p 1 (field body 11 2),
      span := present p 2 (field body 13 4) }
  if body.length = 17 && p < 8 && f.valid then some f else none

def encodeJopn (f : JopnFields) : List Byte :=
  beBytes 1 (presence [f.cueQuota.isSome, f.clipQuota.isSome, f.span.isSome]) ++ beBytes 4 f.num ++ beBytes 2 f.den ++
    beBytes 2 f.segLen ++ sent 2 f.cueQuota ++ sent 2 f.clipQuota ++ sent 4 f.span

/-- The fields of TDEF (R42): `desc` is the kind. -/
structure TdefFields where
  track : Fin 16
  desc : Bool
  language : List Byte
  segOut : Bool
  service : Nat
  deriving DecidableEq, Repr

/-- A lowercase letter, 61h to 7Ah (R42). -/
def isLower (b : Byte) : Bool := within 0x61 0x7A b.toNat

/-- Language and output of a track (R42, test 1): three lowercase letters, service 0 to 4, none on a DESC track,
and some output on a TEXT track. -/
def trackOk (desc : Bool) (language : List Byte) (segOut : Bool) (service : Nat) : Bool :=
  decide (language.length = 3) && language.all isLower && decide (service ≤ 4) &&
    (if desc then service == 0 else segOut || service != 0)

def TdefFields.valid (f : TdefFields) : Bool := trackOk f.desc f.language f.segOut f.service

/-- TDEF's body, 7 bytes (R196). -/
def parseTdef (body : List Byte) : Option TdefFields :=
  let n := field body 0 1
  if h : n < 16 then
    let f : TdefFields :=
      { track := ⟨n, h⟩, desc := field body 1 1 == 1, language := (body.drop 2).take 3,
        segOut := field body 5 1 == 1, service := field body 6 1 }
    if body.length = 7 && field body 1 1 ≤ 1 && field body 5 1 ≤ 1 && f.valid then some f else none
  else none

def encodeTdef (f : TdefFields) : List Byte :=
  beBytes 1 f.track.val ++ [flagByte f.desc] ++ f.language ++ [flagByte f.segOut] ++ beBytes 1 f.service

/-- Parity by its code (R196). -/
def Parity.ofCode : Nat → Option Parity
  | 0 => some .odd
  | 1 => some .even
  | 2 => some .none
  | _ => Option.none

def Parity.code : Parity → Nat
  | .odd => 0
  | .even => 1
  | .none => 2

/-- The ranges of lane settings (R81, R82). -/
def LaneSettings.valid (x : LaneSettings) : Bool :=
  (x.symbols == 2 || x.symbols == 4) && within 8 600 x.lookahead && within 0x20 0x7E x.subst

/-- LSET's body, 7 bytes: an absent field takes its default (R82, R196). -/
def parseLset (body : List Byte) : Option LaneSettings :=
  let p := field body 0 1
  let parity := if p.testBit 1 then Parity.ofCode (field body 5 1) else some LaneSettings.default.parity
  match parity with
  | none => none
  | some par =>
    let x : LaneSettings :=
      { enabled := field body 1 1 == 1, symbols := field body 2 1,
        lookahead := (present p 0 (field body 3 2)).getD LaneSettings.default.lookahead,
        parity := par, subst := (present p 2 (field body 6 1)).getD LaneSettings.default.subst }
    if body.length = 7 && p < 8 && field body 1 1 ≤ 1 && x.valid then some x else none

/-- LSET with every optional field present. -/
def encodeLset (x : LaneSettings) : List Byte :=
  beBytes 1 7 ++ [flagByte x.enabled] ++ beBytes 1 x.symbols ++ beBytes 2 x.lookahead ++ beBytes 1 x.parity.code ++
    beBytes 1 x.subst

/-- The enabled thresholds in index order (R108). -/
def enabledThresholds (thresholds : List Nat) (mask : Byte) : List Nat :=
  ((thresholds.zip [0, 1, 2, 3, 4, 5, 6, 7]).filter fun p => mask.getLsbD p.2).map (·.1)

/-- A list that rises strictly. -/
def risesStrictly : List Nat → Bool
  | [] => true
  | [_] => true
  | a :: b :: rest => decide (a < b) && risesStrictly (b :: rest)

/-- The tests of R109 on a whole settings record. -/
def DetSettings.valid (x : DetSettings) : Bool :=
  decide (x.thresholds.length = 8) && x.thresholds.all (fun t => decide (t ≤ 255)) &&
    risesStrictly (enabledThresholds x.thresholds x.sampleMask) &&
    decide (x.speech ≤ 7) && x.sampleMask.getLsbD x.speech && within 1 250 x.gapDebounce &&
    within 1 250 x.speechDebounce && within 1 500 x.holeLimit

/-- DSET's body, 17 bytes, over the settings in force: an absent optional field keeps its value (R109, R196). -/
def parseDset (old : DetSettings) (body : List Byte) : Option DetSettings :=
  let p := field body 0 1
  let x : DetSettings :=
    { thresholds := [1, 2, 3, 4, 5, 6, 7, 8].map fun o => field body o 1
      sampleMask := BitVec.ofNat 8 (field body 9 1), debounceMask := BitVec.ofNat 8 (field body 10 1),
      speech := field body 11 1, gapDebounce := (present p 0 (field body 12 1)).getD old.gapDebounce,
      speechDebounce := (present p 1 (field body 13 1)).getD old.speechDebounce,
      mixedRestart := if p.testBit 2 then field body 14 1 == 1 else old.mixedRestart,
      holeLimit := (present p 3 (field body 15 2)).getD old.holeLimit }
  if body.length = 17 && p < 16 && (!p.testBit 2 || field body 14 1 ≤ 1) && x.valid then some x else none

/-- DSET with every optional field present. -/
def encodeDset (x : DetSettings) : List Byte :=
  beBytes 1 15 ++ x.thresholds.flatMap (beBytes 1) ++ [x.sampleMask, x.debounceMask] ++ beBytes 1 x.speech ++
    beBytes 1 x.gapDebounce ++ beBytes 1 x.speechDebounce ++ [flagByte x.mixedRestart] ++ beBytes 2 x.holeLimit

/-- A gain from an attenuation (11, opening): a depth of -48 travels as 48. -/
def gainOf (att : Nat) : Int := -(att : Int)

/-- The attenuation of a gain. -/
def attOf (g : Int) : Nat := g.natAbs

/-- A depth lies from -8 to -160 (R132, R135). -/
def depthOk (g : Int) : Bool := decide (g ≤ -8) && decide (-160 ≤ g)

/-- The ranges of a ducking record (R132). -/
def Ducking.valid (x : Ducking) : Bool :=
  depthOk x.depth && decide (x.extra ≤ 0) && decide (-80 ≤ x.extra) && decide (x.rampDown ≤ 48000) &&
    decide (x.rampUp ≤ 48000) && decide (x.mergeGap ≤ 96000) && decide (x.lead ≤ 48000) && decide (x.tail ≤ 48000) &&
    decide (x.spacing ≤ 96000)

/-- The policy by its code (R196). -/
def Policy.ofCode : Nat → Option Policy
  | 0 => some .duckOver
  | 1 => some .drop
  | _ => none

def Policy.code : Policy → Nat
  | .duckOver => 0
  | .drop => 1

/-- The fields of DUCK (R133): a track number and a change of each parameter or none. -/
structure DuckFields where
  track : Fin 16
  depth : Option Nat
  extra : Option Nat
  rampDown : Option Nat
  rampUp : Option Nat
  mergeGap : Option Nat
  lead : Option Nat
  tail : Option Nat
  spacing : Option Nat
  policy : Option Policy
  deriving DecidableEq, Repr

/-- A parameter outside its values is refused (R133, test 1). -/
def DuckFields.valid (f : DuckFields) : Bool :=
  optWithin 8 160 f.depth && optWithin 0 80 f.extra && optWithin 0 48000 f.rampDown && optWithin 0 48000 f.rampUp &&
    optWithin 0 96000 f.mergeGap && optWithin 0 48000 f.lead && optWithin 0 48000 f.tail && optWithin 0 96000 f.spacing

/-- DUCK's body, 30 bytes (R196): presence bits 0 to 8 in the order of R132. -/
def parseDuck (body : List Byte) : Option DuckFields :=
  let n := field body 0 1
  let p := field body 1 2
  let policy : Option (Option Policy) :=
    if p.testBit 8 then (Policy.ofCode (field body 29 1)).map some else some none
  if h : n < 16 then
    match policy with
    | none => none
    | some pol =>
      let f : DuckFields :=
        { track := ⟨n, h⟩, depth := present p 0 (field body 3 1), extra := present p 1 (field body 4 1),
          rampDown := present p 2 (field body 5 4), rampUp := present p 3 (field body 9 4),
          mergeGap := present p 4 (field body 13 4), lead := present p 5 (field body 17 4),
          tail := present p 6 (field body 21 4), spacing := present p 7 (field body 25 4), policy := pol }
      if body.length = 30 && p < 512 && f.valid then some f else none
  else none

def encodeDuck (f : DuckFields) : List Byte :=
  beBytes 1 f.track.val ++
    beBytes 2 (presence [f.depth.isSome, f.extra.isSome, f.rampDown.isSome, f.rampUp.isSome, f.mergeGap.isSome,
      f.lead.isSome, f.tail.isSome, f.spacing.isSome, f.policy.isSome]) ++
    sent 1 f.depth ++ sent 1 f.extra ++ sent 4 f.rampDown ++ sent 4 f.rampUp ++ sent 4 f.mergeGap ++ sent 4 f.lead ++
    sent 4 f.tail ++ sent 4 f.spacing ++ sent 1 (f.policy.map Policy.code)

/-- A ducking record with the given parameters set (R133). -/
def DuckFields.apply (f : DuckFields) (x : Ducking) : Ducking :=
  { depth := (f.depth.map gainOf).getD x.depth, extra := (f.extra.map gainOf).getD x.extra,
    rampDown := f.rampDown.getD x.rampDown, rampUp := f.rampUp.getD x.rampUp, mergeGap := f.mergeGap.getD x.mergeGap,
    lead := f.lead.getD x.lead, tail := f.tail.getD x.tail, spacing := f.spacing.getD x.spacing,
    policy := f.policy.getD x.policy }

/-- The nine parameters as DUCK lays them out, without track and presence (R197). -/
def Ducking.bytes (x : Ducking) : List Byte :=
  beBytes 1 (attOf x.depth) ++ beBytes 1 (attOf x.extra) ++ beBytes 4 x.rampDown ++ beBytes 4 x.rampUp ++
    beBytes 4 x.mergeGap ++ beBytes 4 x.lead ++ beBytes 4 x.tail ++ beBytes 4 x.spacing ++ beBytes 1 x.policy.code

/-- JGO's body: empty, or an anchor (R24, R196). -/
def parseJgo (body : List Byte) : Option (Option Nat) :=
  if body.length = 0 then some none else if body.length = 4 then some (some (field body 0 4)) else none

/-- CREV's and KREV's body: track and id, the track from 0 to 15 (R58, R143, R196). -/
def parseRevoke (body : List Byte) : Option (Fin 16 × Nat) :=
  let n := field body 0 1
  if h : n < 16 then if body.length = 5 then some (⟨n, h⟩, field body 1 4) else none else none

def encodeRevoke (track : Fin 16) (id : Nat) : List Byte := beBytes 1 track.val ++ beBytes 4 id

/-- GQRY's body: a list position from 0 to 63 (R130, R196). -/
def parseGqry (body : List Byte) : Option Nat :=
  if body.length = 1 && field body 0 1 ≤ 63 then some (field body 0 1) else none

/-- The fields of CUE (R46). -/
structure CueFields where
  track : Fin 16
  id : Nat
  startMs : Nat
  endMs : Nat
  region : Region
  text : List Byte
  laneText : Option (List Byte)
  deriving DecidableEq, Repr

/-- The region by its code (R196). -/
def Region.ofCode : Nat → Option Region
  | 0 => some .bottom
  | 1 => some .top
  | _ => none

def Region.code : Region → Nat
  | .bottom => 0
  | .top => 1

/-- A lane text by its bytes: absent when its length is 0 (R196). -/
def laneTextOf (bs : List Byte) : Option (List Byte) := if bs.isEmpty then none else some bs

/-- The byte length of an optional text. -/
def textLen : Option (List Byte) → Nat
  | some t => t.length
  | none => 0

/-- Well formed as R46 says: end ≥ start, text of 1 to 480 bytes, lane text of 1 to 122 when present. -/
def CueFields.valid (f : CueFields) : Bool :=
  decide (f.startMs ≤ f.endMs) && within 1 480 f.text.length && decide (textLen f.laneText ≤ 122)

/-- CUE's body, 17 + t + l bytes (R196). -/
def parseCue (body : List Byte) : Option CueFields :=
  let n := field body 0 1
  let t := field body 14 2
  let l := field body 16 1
  if h : n < 16 then
    match Region.ofCode (field body 13 1) with
    | none => none
    | some r =>
      let f : CueFields :=
        { track := ⟨n, h⟩, id := field body 1 4, startMs := field body 5 4, endMs := field body 9 4, region := r,
          text := (body.drop 17).take t, laneText := laneTextOf ((body.drop (17 + t)).take l) }
      if body.length = 17 + t + l && f.valid then some f else none
  else none

def encodeCue (f : CueFields) : List Byte :=
  beBytes 1 f.track.val ++ beBytes 4 f.id ++ beBytes 4 f.startMs ++ beBytes 4 f.endMs ++ beBytes 1 f.region.code ++
    beBytes 2 f.text.length ++ beBytes 1 (textLen f.laneText) ++ f.text ++ f.laneText.getD []

/-- The fields of CLIP (R135). -/
structure ClipFields where
  track : Fin 16
  id : Nat
  ref : Nat
  startMs : Nat
  latestMs : Nat
  dur : Nat
  depthOv : Option Nat
  deriving DecidableEq, Repr

/-- Well formed as R135 says. -/
def ClipFields.valid (f : ClipFields) : Bool :=
  decide (f.startMs ≤ f.latestMs) && within 480 2880000 f.dur && optWithin 8 160 f.depthOv

/-- CLIP's body, 22 bytes; a depth byte of 0 is an absent override (R196). -/
def parseClip (body : List Byte) : Option ClipFields :=
  let n := field body 0 1
  let a := field body 21 1
  if h : n < 16 then
    let f : ClipFields :=
      { track := ⟨n, h⟩, id := field body 1 4, ref := field body 5 4, startMs := field body 9 4,
        latestMs := field body 13 4, dur := field body 17 4, depthOv := if a = 0 then none else some a }
    if body.length = 22 && f.valid then some f else none
  else none

def encodeClip (f : ClipFields) : List Byte :=
  beBytes 1 f.track.val ++ beBytes 4 f.id ++ beBytes 4 f.ref ++ beBytes 4 f.startMs ++ beBytes 4 f.latestMs ++
    beBytes 4 f.dur ++ beBytes 1 (f.depthOv.getD 0)

/-- One window's three sub-window levels (R112). -/
structure Levels where
  v0 : Nat
  v1 : Nat
  v2 : Nat
  deriving DecidableEq, Repr

/-- The fields of LVL (R112). -/
structure LvlFields where
  first : Nat
  windows : List Levels
  deriving DecidableEq, Repr

/-- The levels of a byte sequence, three bytes a window; a rest of fewer than three bytes is no window. -/
def levelsOf : List Byte → List Levels
  | a :: b :: c :: rest => ⟨a.toNat, b.toNat, c.toNat⟩ :: levelsOf rest
  | _ => []

/-- LVL's body, 5 + 3m bytes, m from 1 to 32 (R196). -/
def parseLvl (body : List Byte) : Option LvlFields :=
  let m := field body 4 1
  if within 1 32 m && body.length = 5 + 3 * m then
    some { first := field body 0 4, windows := levelsOf (body.drop 5) }
  else none

def encodeLvl (f : LvlFields) : List Byte :=
  beBytes 4 f.first ++ beBytes 1 f.windows.length ++
    f.windows.flatMap fun v => beBytes 1 v.v0 ++ beBytes 1 v.v1 ++ beBytes 1 v.v2

/-- The header of a CTXP body (11.7), as UNPK carries it: serial, form code, part number, part count. -/
structure CtxHeader where
  serial : Nat
  form : Nat
  part : Nat
  parts : Nat
  deriving DecidableEq, Repr

/-- The context form by its code (11.7). -/
def Form.ofCode : Nat → Option Form
  | 0 => some .short
  | 1 => some .full
  | _ => none

def Form.code : Form → Nat
  | .short => 0
  | .full => 1

/-- UNPK's header: a body shorter than 5 bytes has none (R171). -/
def parseUnpk (body : List Byte) : Option CtxHeader :=
  if body.length < 5 then none
  else some { serial := field body 0 2, form := field body 2 1, part := field body 3 1, parts := field body 4 1 }

end Sys2Proof.Machine
end

