-- ==== Sys2Proof/Machine/Time.lean ====
section
/-! DEFINITION. Programme time: the conversions between milliseconds, frames, samples and windows (R3 to R12). -/

namespace Sys2Proof.Machine

/-- Whole frames in 24 hours of a rate (R3). -/
def spanLimit (num den : Nat) : Nat := 86400 * num / den

/-- The frame of a programme time p, round half up (R5). -/
def Timebase.frameOf (tb : Timebase) (p : Nat) : Nat :=
  (2 * p * tb.num + tb.den * 1000) / (2 * tb.den * 1000)

/-- The output time of a frame, round half up (R7). -/
def Timebase.outMs (tb : Timebase) (f : Nat) : Nat := (2 * f * tb.den * 1000 + tb.num) / (2 * tb.num)

/-- The first sample of a frame, round half up (R8). -/
def Timebase.firstSample (tb : Timebase) (f : Nat) : Nat := (2 * f * tb.den * 48000 + tb.num) / (2 * tb.num)

/-- The frame containing a sample (R9). No rule of the manual uses it. -/
def Timebase.frameContaining (tb : Timebase) (s : Nat) : Nat := s * tb.num / (tb.den * 48000)

/-- The sample of a source time at or after the anchor (R10). -/
def Timebase.sampleOf (tb : Timebase) (t : Nat) : Nat := (t - tb.anchor.getD 0) * 48

/-- The span end sample (R12). -/
def Job.spanEnd (b : Job) : Nat := b.tb.firstSample b.tb.span

/-- The watermark sample Ws (R12, R13). -/
def Job.ws (b : Job) : Nat := b.tb.firstSample (b.w.getD 0)

/-- The end sample (R12). -/
def Job.endSample (b : Job) : Nat := b.tb.firstSample (b.e.getD 0)

/-- The emitted-through sample (R70). -/
def Job.emittedSample (b : Job) : Nat := b.tb.firstSample b.seg.emitted

/-- Division rounded up. -/
def ceilDiv (a b : Nat) : Nat := (a + b - 1) / b

/-- The expected window e (R111). -/
def Job.expectedWindow (b : Job) : Nat := b.cls.horizon / Config.window

/-- The windows of the span: those whose first sample lies before the span end sample (R11). -/
def Job.spanWindows (b : Job) : Nat := ceilDiv b.spanEnd Config.window

end Sys2Proof.Machine
end

