-- ==== Sys2Proof/Machine/Ops.lean ====
section
/-! DEFINITION. The shared operations over the job table, the track table, the three pools, the outbound store and
its rotation, and the forms of an answer. -/

namespace Sys2Proof.Machine

/-! ### The job table and the track table -/

/-- The slots, in number order; slot j is addressed by job number j + 1 (R18). -/
def slotNumbers : List (Fin 8) := [0, 1, 2, 3, 4, 5, 6, 7]

/-- The places of the track table, in number order (R41). -/
def trackNumbers : List (Fin 16) := [0, 1, 2, 3, 4, 5, 6, 7, 8, 9, 10, 11, 12, 13, 14, 15]

/-- The slot a job field from 1 to 8 addresses (R19). -/
def slotOf (job : Byte) : Option (Fin 8) :=
  if h : 1 ≤ job.toNat ∧ job.toNat ≤ 8 then some ⟨job.toNat - 1, by omega⟩ else none

/-- The job number of a slot (R18). -/
def jobNumber (j : Fin 8) : Byte := BitVec.ofNat 8 (j.val + 1)

def State.slot (s : State) (j : Fin 8) : Slot := s.slots[j]

def State.setSlot (j : Fin 8) (x : Slot) (s : State) : State := { s with slots := s.slots.set j x }

/-- The job a slot holds. -/
def State.job? (s : State) (j : Fin 8) : Option Job :=
  match s.slot j with
  | .job b => some b
  | _ => none

def State.setJob (j : Fin 8) (b : Job) (s : State) : State := s.setSlot j (.job b)

/-- Changes the job of a slot, if it holds one. -/
def State.mapJob (j : Fin 8) (f : Job → Job) (s : State) : State :=
  match s.slot j with
  | .job b => s.setJob j (f b)
  | _ => s

def Job.track (b : Job) (i : Fin 16) : Option Track := b.tracks[i]

def Job.setTrack (i : Fin 16) (t : Track) (b : Job) : Job := { b with tracks := b.tracks.set i (some t) }

/-- The TEXT track of a place (R46). -/
def Job.text? (b : Job) (i : Fin 16) : Option TextTrack :=
  match b.track i with
  | some (.text t) => some t
  | _ => none

/-- The DESC track of a place (R135). -/
def Job.desc? (b : Job) (i : Fin 16) : Option DescTrack :=
  match b.track i with
  | some (.desc t) => some t
  | _ => none

/-- The job's TEXT tracks in increasing number. -/
def Job.textTracks (b : Job) : List (Fin 16 × TextTrack) :=
  trackNumbers.filterMap fun i => (b.text? i).map fun t => (i, t)

/-- The job's DESC tracks in increasing number. -/
def Job.descTracks (b : Job) : List (Fin 16 × DescTrack) :=
  trackNumbers.filterMap fun i => (b.desc? i).map fun t => (i, t)

/-- The number of tracks held (R42). -/
def Job.trackCount (b : Job) : Nat := (trackNumbers.filter fun i => (b.track i).isSome).length

/-- A change of one DESC track. -/
def Job.mapDesc (i : Fin 16) (f : DescTrack → DescTrack) (b : Job) : Job :=
  match b.desc? i with
  | some t => b.setTrack i (.desc (f t))
  | none => b

/-- A change of one TEXT track. -/
def Job.mapText (i : Fin 16) (f : TextTrack → TextTrack) (b : Job) : Job :=
  match b.text? i with
  | some t => b.setTrack i (.text (f t))
  | none => b

/-- A change of every TEXT track. -/
def Job.mapTexts (f : TextTrack → TextTrack) (b : Job) : Job := trackNumbers.foldl (fun b i => b.mapText i f) b

/-- A change of every DESC track. -/
def Job.mapDescs (f : DescTrack → DescTrack) (b : Job) : Job := trackNumbers.foldl (fun b i => b.mapDesc i f) b

/-- A TEXT track is on the lane when it has a service and the job's lane is enabled (R43). -/
def Job.onLane (b : Job) (t : TextTrack) : Bool := b.laneSet.enabled && t.service != 0

/-! ### The pools -/

/-- Text blocks of a cue: ceil(t / 32) for its text and ceil(l / 32) for its stored lane text (R44). -/
def blocksOf (text : List Byte) (laneText : Option (List Byte)) : Nat :=
  ceilDiv text.length 32 + ceilDiv (textLen laneText) 32

def Untimed.isCue : Untimed → Bool
  | .cue _ => true
  | .clip _ => false

def Untimed.blocks : Untimed → Nat
  | .cue c => blocksOf c.text c.laneText
  | .clip _ => 0

/-- The sum of a list. -/
def total (xs : List Nat) : Nat := xs.foldr (· + ·) 0

/-- Cue entries a job holds, untimed ones included (R23). -/
def Job.cueCount (b : Job) : Nat :=
  total (b.textTracks.map fun p => p.2.cues.length) + (b.untimed.filter Untimed.isCue).length

/-- Text blocks a job holds (R44). -/
def Job.blockCount (b : Job) : Nat :=
  total (b.textTracks.map fun p => total (p.2.cues.map fun c => blocksOf c.text c.laneText)) +
    total (b.untimed.map Untimed.blocks)

/-- Clip entries a job holds, untimed ones included (R23, R134). -/
def Job.clipCount (b : Job) : Nat :=
  total (b.descTracks.map fun p => p.2.pending.length + p.2.placed.length) +
    (b.untimed.filter fun u => !u.isCue).length

def Slot.cueCount : Slot → Nat
  | .free => 0
  | .restoring a => a.cues
  | .job b => b.cueCount

def Slot.blockCount : Slot → Nat
  | .free => 0
  | .restoring a => a.blocks
  | .job b => b.blockCount

def Slot.clipCount : Slot → Nat
  | .free => 0
  | .restoring a => a.clips
  | .job b => b.clipCount

/-- Free cue entries (R44). -/
def State.freeCues (s : State) : Nat := Config.cuePool - total (slotNumbers.map fun j => (s.slot j).cueCount)

/-- Free text blocks (R44). -/
def State.freeBlocks (s : State) : Nat := Config.blockPool - total (slotNumbers.map fun j => (s.slot j).blockCount)

/-- Free clip entries (R134). -/
def State.freeClips (s : State) : Nat := Config.clipPool - total (slotNumbers.map fun j => (s.slot j).clipCount)

/-! ### The outbound store and its rotation -/

/-- Occupied entries, the one being sent included until its transmission ends (R181, R183). -/
def State.used (s : State) : Nat :=
  s.store.length + (match s.tx with | some t => if t.holds then 1 else 0 | none => 0)

/-- Free entries of the outbound store (R181). -/
def State.freeEntries (s : State) : Nat := Config.storeSize - s.used

/-- RDY_OUT (R175, R179, R187): asserted while running with at least 2 inbound entries free. -/
def State.rdyOut (s : State) : Bool := s.phase == .run && decide (s.inbound.length + 2 ≤ Config.inboundSize)

/-- A record joins the tail of the store. -/
def State.place (e : OutEntry) (s : State) : State := { s with store := s.store ++ [e] }

/-- The kind codes of the part's own records (11.2). -/
def kRPLY : Byte := 0x80#8
def kNOTE : Byte := 0x81#8
def kSEGT : Byte := 0x82#8
def kSEGD : Byte := 0x83#8
def kSEGC : Byte := 0x84#8
def kLANE : Byte := 0x85#8
def kCTXP : Byte := 0x86#8

/-- A reply record: the request's job field and tag, its kind, the status, the fields (R180, R197). -/
def replyRecord (r : LinkRecord) (st : Status) (fields : List Byte) : LinkRecord :=
  { kind := kRPLY, job := r.job, flags := 0#8, tag := r.tag, body := r.kind :: st.code :: fields }

/-- Placing a reply. -/
def State.reply (r : LinkRecord) (st : Status) (fields : List Byte) (s : State) : State :=
  s.place { record := replyRecord r st fields, cls := .reply, owner := none, unfinished := false, lastPart := false }

/-- What a request does and what its reply carries. -/
structure Result where
  s : State
  st : Status
  fields : List Byte

/-- A refusal that changes nothing and carries no field. -/
def refuse (st : Status) (s : State) : Result := ⟨s, st, []⟩

/-- The effect of a request, then its reply (R180; the order is assumption 6). -/
def answer (r : LinkRecord) (x : Result) : State := x.s.reply r x.st x.fields

/-- The job field check (R19): a slot request addresses slots 1 to 8. -/
def withSlot (r : LinkRecord) (s : State) (f : Fin 8 → Result) : Result :=
  match slotOf r.job with
  | some j => f j
  | none => refuse .badField s

/-- The state check of a request taken only in states of a job (R21): any other slot refuses with BAD_STATE. -/
def withJobIn (ok : JobState → Bool) (s : State) (j : Fin 8) (f : Job → Result) : Result :=
  match s.slot j with
  | .job b => if ok b.state then f b else refuse .badState s
  | _ => refuse .badState s

/-- The producers of a job that wait for room (R182). -/
def Job.waits (b : Job) : Producer → Bool
  | .segmenter => b.seg.wait
  | .lane => b.lane.wait
  | .context => match b.park with | some p => p.wait | none => false
  | .notice => b.notices.wait

/-- The producers, in rotation order (R182). -/
def Producer.after : Producer → List Producer
  | .segmenter => [.lane, .context, .notice, .segmenter]
  | .lane => [.context, .notice, .segmenter, .lane]
  | .context => [.notice, .segmenter, .lane, .context]
  | .notice => [.segmenter, .lane, .context, .notice]

/-- The first waiting producer of a job after the one served last (R182). -/
def Job.turn (b : Job) : Option Producer := b.lastProducer.after.find? b.waits

/-- The slot of a claimant; the ninth claimant is the device (R182). -/
def claimantSlot (c : Fin 9) : Option (Fin 8) := if h : c.val < 8 then some ⟨c.val, h⟩ else none

/-- What a claimant waits to have placed, if anything (R182). -/
def State.claimantTurn (s : State) (c : Fin 9) : Option Producer :=
  match claimantSlot c with
  | some j =>
    match s.slot j with
    | .job b => b.turn
    | _ => none
  | none => if s.device.wait then some .notice else none

/-- The claimants in rotation order, beginning after the one served last (R182). -/
def claimantsAfter (c : Fin 9) : List (Fin 9) :=
  [1, 2, 3, 4, 5, 6, 7, 8, 9].map fun k => ⟨(c.val + k) % 9, Nat.mod_lt _ (by omega)⟩

/-- The claimant and producer whose turn it is (R182). -/
def State.turn (s : State) : Option (Fin 9 × Producer) :=
  (claimantsAfter s.lastClaimant).findSome? fun c => (s.claimantTurn c).map fun p => (c, p)

/-- Some claimant waits (R182). -/
def State.anyWaiting (s : State) : Bool := s.turn.isSome

/-- Room for an output or notice record at once: more than 8 entries free and no claimant waiting (R182). -/
def State.roomNow (s : State) : Bool := decide (Config.reserve < s.freeEntries) && !s.anyWaiting

/-- The claimant and producer become the ones served last (R182). -/
def State.served (c : Fin 9) (p : Producer) (s : State) : State :=
  let s := { s with lastClaimant := c }
  match claimantSlot c with
  | some j => s.mapJob j fun b => { b with lastProducer := p }
  | none => s

/-- Placing a job's output record (R181). -/
def State.placeOutput (j : Fin 8) (rec : LinkRecord) (last : Bool) (s : State) : State :=
  s.place { record := rec, cls := .output, owner := some j, unfinished := false, lastPart := last }

/-- Entries of a slot's former job no longer belong to a live job: they are still transmitted (R36, R37, R168). -/
def disownEntry (j : Fin 8) (e : OutEntry) : OutEntry := if e.owner = some j then { e with owner := none } else e

/-- The slot becomes FREE and whatever it held is discarded; its records already placed stay (R36, R37, R168). -/
def State.freeSlot (j : Fin 8) (s : State) : State :=
  { s.setSlot j .free with
    store := s.store.map (disownEntry j)
    tx := s.tx.map fun t => { t with entry := disownEntry j t.entry } }

end Sys2Proof.Machine
end

