-- ==== Sys2Proof/Machine/NoticeRequests.lean ====
section
/-! DEFINITION. The Notice Unit's two requests: NCLR and NSET (R193, R194). -/

namespace Sys2Proof.Machine

/-- A kind set names kinds of one class only (R193, R194, R198). -/
def kindsWithin (cls set : KindSet) : Bool := set &&& ~~~cls == 0#32

/-- The kinds whose counts an NCLR returns: those named, or every kind of the class for an empty set (R193, R198). -/
def returnedKinds (cls set : KindSet) : KindSet := if set == 0#32 then cls else set

/-- The NCLR reply's fields: the set of the counts returned and the counts (R193, R197). -/
def Notices.nclrBytes (base : Nat) (cls set : KindSet) (x : Notices) : List Byte :=
  beBytes 4 (returnedKinds cls set).toNat ++ x.countBytes base (returnedKinds cls set)

/-- A job's named counts cleared; a stall count whose source is active becomes 1 again (R190, R193). -/
def Job.clearKinds (set : KindSet) (b : Job) : Job :=
  let b1 := { b with notices := b.notices.clear eventBase set }
  b1.reportIf (set.getLsbD Event.outputStalled.code && b1.stalled) .outputStalled

/-- NCLR at a job (R193). -/
def nclrJob (body : List Byte) (j : Fin 8) (b : Job) (s : State) : Result :=
  match parseWord body with
  | none => refuse .badField s
  | some n =>
    let set : KindSet := BitVec.ofNat 32 n
    if kindsWithin eventSet set then
      ⟨s.setJob j (b.clearKinds set), .ok, b.notices.nclrBytes eventBase eventSet set⟩
    else refuse .badField s

/-- NCLR at the device (R193). -/
def nclrDevice (body : List Byte) (s : State) : Result :=
  match parseWord body with
  | none => refuse .badField s
  | some n =>
    let set : KindSet := BitVec.ofNat 32 n
    if kindsWithin alertSet set then
      ⟨{ s with device := s.device.clear alertBase set }, .ok, s.device.nclrBytes alertBase alertSet set⟩
    else refuse .badField s

/-- NCLR (R193). -/
def doNclr (r : LinkRecord) (s : State) : Result :=
  if r.job = 0#8 then nclrDevice r.body s
  else withSlot r s fun j => withJobIn (fun _ => true) s j fun b => nclrJob r.body j b s

/-- NSET at a job (R194): the enables are replaced whole. -/
def nsetJob (body : List Byte) (j : Fin 8) (b : Job) (s : State) : Result :=
  match parseWord body with
  | none => refuse .badField s
  | some n =>
    let set : KindSet := BitVec.ofNat 32 n
    if kindsWithin eventSet set then
      ⟨s.setJob j { b with notices := { b.notices with enables := set } }, .ok, beBytes 4 set.toNat⟩
    else refuse .badField s

/-- NSET at the device (R194): the alert enables are fixed. -/
def nsetDevice (body : List Byte) (s : State) : Result :=
  match parseWord body with
  | none => refuse .badField s
  | some n =>
    if (BitVec.ofNat 32 n : KindSet) = alertSet then ⟨s, .ok, beBytes 4 alertSet.toNat⟩ else refuse .badField s

/-- NSET (R194). -/
def doNset (r : LinkRecord) (s : State) : Result :=
  if r.job = 0#8 then nsetDevice r.body s
  else withSlot r s fun j => withJobIn (fun _ => true) s j fun b => nsetJob r.body j b s

end Sys2Proof.Machine
end

