-- ==== Sys2Proof/Machine/Captions.lean ====
section
/-! DEFINITION. From cue to caption: lane symbols, lines, rows and the load sequence (R84 to R89). -/

namespace Sys2Proof.Machine

/-! ### Symbols (R85, R86) -/

/-- Whether a 7-bit value has an odd number of one bits. -/
def oddOnes (v : Byte) : Bool := [0, 1, 2, 3, 4, 5, 6].foldl (fun p i => p != v.getLsbD i) false

/-- The byte a symbol is sent as, under a parity setting (R85). -/
def parityByte (p : Parity) (v : Byte) : Byte :=
  let low := v &&& 0x7F#8
  match p with
  | .odd => if oddOnes low then low else low ||| 0x80#8
  | .even => if oddOnes low then low ||| 0x80#8 else low
  | .none => low

/-- A slot of a lane frame: two symbols (R84). -/
abbrev SlotPair := Byte × Byte

/-- FILL (R85). -/
def fill : Byte := 0x00#8

def fillPair : SlotPair := (fill, fill)

/-- The service symbol of service s, 1 to 4 (R86). -/
def serviceSymbol (s : Nat) : Byte := BitVec.ofNat 8 (0x10 + (s - 1))

/-- Command symbols (R86). -/
def cLOAD : Byte := 0x40#8
def cSHOW : Byte := 0x41#8
def cCLEAR : Byte := 0x42#8
def cRESET : Byte := 0x43#8
def cRESUME : Byte := 0x44#8
def cROW (r : Nat) : Byte := BitVec.ofNat 8 (0x50 + r)

/-- A control pair (R84, R86). -/
def controlPair (s : Nat) (c : Byte) : SlotPair := (serviceSymbol s, c)

/-! ### Lines and characters (R87) -/

/-- Splits at LF (0Ah); lines in order, empty ones included. -/
def splitLf : List Byte → List (List Byte)
  | [] => [[]]
  | b :: bs =>
    match splitLf bs with
    | [] => [[b]]
    | line :: rest => if b = 0x0A#8 then [] :: line :: rest else (b :: line) :: rest

/-- The lines of R87 step 1: empty lines are dropped. -/
def linesOf (bs : List Byte) : List (List Byte) := (splitLf bs).filter fun l => !l.isEmpty

/-- A byte from lo to hi. -/
def inRange (lo hi : Nat) (b : Byte) : Bool := within lo hi b.toNat

/-- A continuation byte (R87). -/
def isCont (b : Byte) : Bool := inRange 0x80 0xBF b

/-- The length of the well-formed UTF-8 sequence a byte string starts with, or 0 (the list of R87 step 2). -/
def utf8Len : List Byte → Nat
  | [] => 0
  | [a] => if inRange 0x00 0x7F a then 1 else 0
  | [a, b] => if inRange 0x00 0x7F a then 1 else if inRange 0xC2 0xDF a && isCont b then 2 else 0
  | [a, b, c] =>
    if inRange 0x00 0x7F a then 1
    else if inRange 0xC2 0xDF a && isCont b then 2
    else if a.toNat = 0xE0 && inRange 0xA0 0xBF b && isCont c then 3
    else if (inRange 0xE1 0xEC a || inRange 0xEE 0xEF a) && isCont b && isCont c then 3
    else if a.toNat = 0xED && inRange 0x80 0x9F b && isCont c then 3
    else 0
  | a :: b :: c :: d :: _ =>
    if inRange 0x00 0x7F a then 1
    else if inRange 0xC2 0xDF a && isCont b then 2
    else if a.toNat = 0xE0 && inRange 0xA0 0xBF b && isCont c then 3
    else if (inRange 0xE1 0xEC a || inRange 0xEE 0xEF a) && isCont b && isCont c then 3
    else if a.toNat = 0xED && inRange 0x80 0x9F b && isCont c then 3
    else if a.toNat = 0xF0 && inRange 0x90 0xBF b && isCont c && isCont d then 4
    else if inRange 0xF1 0xF3 a && isCont b && isCont c && isCont d then 4
    else if a.toNat = 0xF4 && inRange 0x80 0x8F b && isCont c && isCont d then 4
    else 0

/-- The symbols of a line: each printable character its own, everything else one substitute, given as none
(R87 steps 2 and 3). The fuel is the line's length. -/
def lineSymbols : Nat → List Byte → List (Option Byte)
  | 0, _ => []
  | _, [] => []
  | n + 1, a :: rest =>
    if inRange 0x20 0x7E a then some a :: lineSymbols n rest
    else none :: lineSymbols n ((a :: rest).drop (max 1 (utf8Len (a :: rest))))

/-- The decoded lines of a caption's source (R87). -/
def decodedLines (bs : List Byte) : List (List (Option Byte)) := (linesOf bs).map fun l => lineSymbols l.length l

/-! ### Fitting (R88) -/

/-- A row of a caption: its row number and its text symbols. -/
structure CaptionRow where
  row : Nat
  symbols : List Byte
  deriving DecidableEq, Repr

/-- The bytes a caption is made from: the lane text when the cue has it, else the text (R87). -/
def Cue.captionSource (c : Cue) : List Byte := c.laneText.getD c.text

/-- The first row of n rows (R88). -/
def firstRow (r : Region) (n : Nat) : Nat :=
  match r with
  | .bottom => 16 - n
  | .top => 1

/-- Numbers rows upward from a first row. -/
def numberRows : Nat → List (List Byte) → List CaptionRow
  | _, [] => []
  | r, l :: ls => ⟨r, l⟩ :: numberRows (r + 1) ls

/-- The rows of a caption: three lines of 40 symbols are kept (R88). -/
def Cue.rows (x : LaneSettings) (c : Cue) : List CaptionRow :=
  let kept := ((decodedLines c.captionSource).take 3).map fun l => (l.take 40).map fun o => o.getD (BitVec.ofNat 8 x.subst)
  numberRows (firstRow c.region kept.length) kept

/-- A caption is degraded when a line or symbols of a line are dropped, or R87 gave a substitute (R88). -/
def Cue.degraded (c : Cue) : Bool :=
  let ls := decodedLines c.captionSource
  decide (3 < ls.length) || (ls.take 3).any (fun l => decide (40 < l.length)) || ls.any fun l => l.any Option.isNone

/-! ### The load sequence (R89) -/

/-- A step of a load sequence, one slot each (R89). -/
inductive LoadStep where
  | load
  | row (r : Nat)
  | text (a b : Byte)
  deriving DecidableEq, Repr

/-- The text steps of a row: two symbols a step, the last with FILL when one is left (R89). -/
def textSteps : List Byte → List LoadStep
  | [] => []
  | [a] => [.text a fill]
  | a :: b :: rest => .text a b :: textSteps rest

/-- The load sequence of a caption (R89). -/
def loadSteps (rows : List CaptionRow) : List LoadStep :=
  .load :: rows.flatMap fun r => .row r.row :: textSteps r.symbols

/-- The load cost of a caption in slots (R89). -/
def loadCost (rows : List CaptionRow) : Nat := (loadSteps rows).length

end Sys2Proof.Machine
end

