-- ==== Sys2Proof/Machine/Cues.lean ====
section
/-! DEFINITION. The Cue Store: judging, storing, revoking and retiring cues (R42 to R62). -/

namespace Sys2Proof.Machine

/-- A cue's frame interval and marks (R6). -/
structure Interval where
  startF : Nat
  endF : Nat
  clipped : Bool
  stretched : Bool
  clamped : Bool
  deriving DecidableEq, Repr

/-- A judgement: a refusal's status, or what is taken. -/
inductive Verdict (α : Type) where
  | refuse (st : Status)
  | take (x : α)
  deriving DecidableEq, Repr

/-- The interval of a cue between programme times ps and pe (R6, R51): none beyond the span. -/
def frameInterval (tb : Timebase) (ps pe : Nat) : Option Interval :=
  let f0 := tb.frameOf ps
  let f1 := tb.frameOf pe
  if tb.span ≤ f0 then none
  else
    let stretched := f1 == f0
    let f1 := if stretched then f0 + 1 else f1
    some { startF := f0, endF := min f1 tb.span, clipped := false, stretched := stretched,
           clamped := decide (tb.span < f1) }

/-- The judgement of a cue against the anchor, the span and the watermark, in that order (R50, R51, R52). -/
def Job.judgeCue (b : Job) (ts te : Nat) : Verdict Interval :=
  let anchor := b.tb.anchor.getD 0
  let w := b.w.getD 0
  if te ≤ anchor then .refuse .late
  else
    match frameInterval b.tb (ts - anchor) (te - anchor) with
    | none => .refuse .beyondSpan
    | some iv =>
      if iv.endF ≤ w then .refuse .late
      else
        .take { iv with startF := max iv.startF w, clipped := decide (ts < anchor) || decide (iv.startF < w) }

/-- A new entry is placed after every entry with a start frame lower than or equal to its own (R48). -/
def insertCue (c : Cue) : List Cue → List Cue
  | [] => [c]
  | x :: xs => if x.startF ≤ c.startF then x :: insertCue c xs else c :: x :: xs

/-- The retirement conditions that apply to an entry all hold (R60). -/
def Job.retired (b : Job) (t : TextTrack) (c : Cue) : Bool :=
  (!t.segOut || decide (c.endF ≤ b.seg.emitted)) &&
    (!b.onLane t || c.lane == .done || c.lane == .skipped)

/-- Retirement examined over one track's list (R61). -/
def Job.retireTrack (b : Job) (t : TextTrack) : TextTrack := { t with cues := t.cues.filter fun c => !b.retired t c }

/-- Retirement examined over every TEXT track (R60, R61). -/
def Job.retireCues (b : Job) : Job := b.mapTexts b.retireTrack

/-- The lane state a cue is stored with (R47, R88). -/
def Job.firstMark (b : Job) (t : TextTrack) (c : Cue) : LaneMark :=
  if b.onLane t then (if (c.rows b.laneSet).isEmpty then .done else .waiting) else .off

/-- Storing a judged cue: the entry is filled, joins its track's list and, on the lane, its service's pending
captions; a cue with no consumer left is freed at once (R47, R48, R53, R60). Its arrival number is given. -/
def Job.storeCue (b : Job) (i : Fin 16) (t : TextTrack) (c : Cue) : Job :=
  let c := { c with lane := b.firstMark t c }
  if b.retired t c then b else b.setTrack i (.text { t with cues := insertCue c t.cues })

/-- A cue entry from the fields of its record and its interval. -/
def cueOf (f : CueFields) (laneText : Option (List Byte)) (iv : Interval) (arrival : Nat) : Cue :=
  { id := f.id, region := f.region, text := f.text, laneText := laneText, startF := iv.startF, endF := iv.endF,
    clipped := iv.clipped, stretched := iv.stretched, clamped := iv.clamped, lane := .off, arrival := arrival }

/-- Lane text is stored only on a track on the lane (R46). -/
def Job.keptLaneText (b : Job) (t : TextTrack) (l : Option (List Byte)) : Option (List Byte) :=
  if b.onLane t then l else none

/-- The capacity tests of a cue: quota, then pools (R45). -/
def Job.cueRoom (b : Job) (blocks freeCues freeBlocks : Nat) : Option Status :=
  if b.cueQuota ≤ b.cueCount then some .quotaFull
  else if freeCues = 0 ∨ freeBlocks < blocks then some .poolFull
  else none

/-- The three marks as a reply carries them (R197). -/
def Interval.marks (iv : Interval) : Nat :=
  (if iv.clipped then 1 else 0) + (if iv.stretched then 2 else 0) + (if iv.clamped then 4 else 0)

/-- The status of a stored cue (R49). -/
def Interval.status (iv : Interval) : Status := if iv.clipped then .clipped else if iv.clamped then .clamped else .ok

/-- A refusal for want of pool room counts POOL_EXHAUSTED on the device (R45, R140). -/
def refuseRoom (st : Status) (s : State) : Result :=
  ⟨if st = .poolFull then s.alert .poolExhausted else s, st, []⟩

/-- A CUE at a RUNNING job: tests 1 to 8 in order, then the store (R49 to R54, R88). -/
def runCue (body : List Byte) (j : Fin 8) (b : Job) (s : State) : Result :=
  match parseCue body with
  | none => refuse .badField s
  | some f =>
    match b.text? f.track with
    | none => refuse .badTrack s
    | some t =>
      if t.cues.any fun c => c.id == f.id then refuse .duplicate s
      else
        match b.judgeCue f.startMs f.endMs with
        | .refuse st => refuse st s
        | .take iv =>
          let laneText := b.keptLaneText t f.laneText
          match b.cueRoom (blocksOf f.text laneText) s.freeCues s.freeBlocks with
          | some st => refuseRoom st s
          | none =>
            let c := cueOf f laneText iv b.nextArrival
            let b' := ({ b with nextArrival := b.nextArrival + 1 }.storeCue f.track t c).reportIf
              (iv.clipped || iv.stretched || iv.clamped) .cueClipped
            let b' := b'.reportIf (b.onLane t && c.degraded) .laneTruncated
            ⟨s.setJob j b', iv.status, beBytes 4 iv.startF ++ beBytes 4 iv.endF ++ beBytes 1 iv.marks⟩

/-- An untimed cue of a track with an id (R26). -/
def Untimed.isCueOf (i : Fin 16) (id : Nat) : Untimed → Bool
  | .cue c => c.track == i && c.id == id
  | .clip _ => false

/-- An untimed clip of a track with an id (R26). -/
def Untimed.isClipOf (i : Fin 16) (id : Nat) : Untimed → Bool
  | .cue _ => false
  | .clip c => c.track == i && c.id == id

/-- A CUE at a job in ANCHOR_WAIT: tests 1, 2, 3, 7 and 8, then the untimed list (R26, R56). -/
def waitCue (body : List Byte) (j : Fin 8) (b : Job) (s : State) : Result :=
  match parseCue body with
  | none => refuse .badField s
  | some f =>
    match b.text? f.track with
    | none => refuse .badTrack s
    | some t =>
      if b.untimed.any (Untimed.isCueOf f.track f.id) then refuse .duplicate s
      else
        let laneText := b.keptLaneText t f.laneText
        match b.cueRoom (blocksOf f.text laneText) s.freeCues s.freeBlocks with
        | some st => refuseRoom st s
        | none =>
          let u : UntimedCue :=
            { track := f.track, id := f.id, startMs := f.startMs, endMs := f.endMs, region := f.region, text := f.text,
              laneText := laneText, arrival := b.nextArrival }
          ⟨s.setJob j { b with untimed := b.untimed ++ [.cue u], nextArrival := b.nextArrival + 1 }, .ok, []⟩

/-- A CREV at a RUNNING job (R58, R59). R59 and R91 say that the cue is WAITING or DONE; R172 accepts a context whose
LOADING or SHOWN caption starts at or after W, and such a cue is removed too, its service's record left as it is
(assumption 48, DESIGN CHOICE). -/
def runCrev (body : List Byte) (j : Fin 8) (b : Job) (s : State) : Result :=
  match parseRevoke body with
  | none => refuse .badField s
  | some (i, id) =>
    match b.text? i with
    | none => refuse .badTrack s
    | some t =>
      match t.cues.find? fun c => c.id == id with
      | none => refuse .notFound s
      | some c =>
        if c.startF < b.w.getD 0 then refuse .tooLate s
        else ⟨s.setJob j (b.setTrack i (.text { t with cues := t.cues.filter fun c => c.id != id })), .ok, []⟩

/-- A CREV at a job in ANCHOR_WAIT (R26). -/
def waitCrev (body : List Byte) (j : Fin 8) (b : Job) (s : State) : Result :=
  match parseRevoke body with
  | none => refuse .badField s
  | some (i, id) =>
    match b.text? i with
    | none => refuse .badTrack s
    | some _ =>
      if b.untimed.any (Untimed.isCueOf i id) then
        ⟨s.setJob j { b with untimed := b.untimed.filter fun u => !u.isCueOf i id }, .ok, []⟩
      else refuse .notFound s

/-- The six counts of the ANCH reply (R27). -/
structure AnchCounts where
  cues : Nat
  cuesClipped : Nat
  cuesDropped : Nat
  clips : Nat
  clipsClipped : Nat
  clipsDropped : Nat
  deriving DecidableEq, Repr

def AnchCounts.bytes (n : AnchCounts) : List Byte :=
  beBytes 2 n.cues ++ beBytes 2 n.cuesClipped ++ beBytes 2 n.cuesDropped ++ beBytes 2 n.clips ++
    beBytes 2 n.clipsClipped ++ beBytes 2 n.clipsDropped

/-- One untimed cue converted at ANCH: judged at a watermark of 0, it takes its place with the entry, blocks and
arrival number it holds, and counts no notice (R28, R57). -/
def convertCue (u : UntimedCue) (b : Job) (n : AnchCounts) : Job × AnchCounts :=
  match b.text? u.track, b.judgeCue u.startMs u.endMs with
  | some t, .take iv =>
    let f : CueFields :=
      { track := u.track, id := u.id, startMs := u.startMs, endMs := u.endMs, region := u.region, text := u.text,
        laneText := u.laneText }
    (b.storeCue u.track t (cueOf f u.laneText iv u.arrival),
      { n with cues := n.cues + 1, cuesClipped := n.cuesClipped + if iv.clipped then 1 else 0 })
  | _, _ => (b, { n with cuesDropped := n.cuesDropped + 1 })

end Sys2Proof.Machine
end

