-- ==== Sys2Proof/Machine/Levels.lean ====
section
/-! DEFINITION. The Level Classifier and the Gap Detector: windows, runs, gaps and the Gap List (R108 to R131). -/

namespace Sys2Proof.Machine

/-! ### Classifying a window (R117, R118) -/

/-- The eight threshold numbers. -/
def bitNumbers : List Nat := [0, 1, 2, 3, 4, 5, 6, 7]

/-- A byte from its bits, bit i given by a predicate. -/
def byteOf (f : Nat → Bool) : Byte := BitVec.ofNat 8 (total (bitNumbers.map fun i => if f i then 2 ^ i else 0))

/-- How many of a window's sub-windows match threshold i (R117): enabled, and the level greater than Ti. -/
def DetSettings.matches (x : DetSettings) (v : Levels) (i : Nat) : Nat :=
  if x.sampleMask.getLsbD i then
    total ([v.v0, v.v1, v.v2].map fun l => if x.thresholds.getD i 255 < l then 1 else 0)
  else 0

/-- A window's match vector: bit i is set when at least two sub-windows match threshold i (R117). -/
def DetSettings.matchVector (x : DetSettings) (v : Levels) : Byte := byteOf fun i => decide (2 ≤ x.matches v i)

/-- A window is mixed when the sub-windows disagree at an enabled threshold (R118). -/
def DetSettings.isMixed (x : DetSettings) (v : Levels) : Bool :=
  bitNumbers.any fun i => x.matches v i == 1 || x.matches v i == 2

/-- A window is loud when bit s of its match vector is set (R118). -/
def DetSettings.isLoud (x : DetSettings) (vector : Byte) : Bool := vector.getLsbD x.speech

/-- The masked vector (R118). -/
def DetSettings.masked (x : DetSettings) (vector : Byte) : Byte := vector &&& x.debounceMask

/-! ### The Gap List (R125 to R127) -/

/-- The usable end of the recorded open gap (R127); the manual gives none outside GAP and SPEECH_WAIT. -/
def Job.usableEnd (b : Job) : Nat :=
  match b.gd.state with
  | .speechWait => Config.window * b.gd.loudStart.getD 0
  | _ => b.cls.horizon

/-- The earliest desired start of the job's pending clips, if any (R126). -/
def Job.earliestPending (b : Job) : Option Nat :=
  (b.descTracks.flatMap fun p => p.2.pending.map fun c => c.d).foldl
    (fun m d => some (match m with | some x => min x d | none => d)) none

/-- A closed gap meeting both conditions of R126. -/
def Job.gapRetired (b : Job) (g : Gap) : Bool :=
  match g.endS with
  | none => false
  | some e =>
    (match b.earliestPending with | some d => decide (e ≤ d) | none => true) && decide (e ≤ b.emittedSample)

/-- Retirement examined over the Gap List (R126). -/
def Job.retireGaps (b : Job) : Job := { b with gaps := b.gaps.filter fun g => !b.gapRetired g }

/-- A change of the last record of the list: the open gap (R125). -/
def mapLast (f : Gap → Gap) : List Gap → List Gap
  | [] => []
  | [g] => [f g]
  | g :: rest => g :: mapLast f rest

/-- A counter that stops at 65,535 (R123, R125). -/
def sat16 (n : Nat) : Nat := min 65535 n

/-- A mixed window inside the open gap adds one to the gap's mixed count when the gap is recorded (R123). -/
def Job.countMixed (mixed : Bool) (b : Job) : Job :=
  if mixed && b.gd.recorded then { b with gaps := mapLast (fun g => { g with mixed := sat16 (g.mixed + 1) }) b.gaps }
  else b

/-! ### The detector (R119 to R124) -/

/-- Leaving to SPEECH: no run and no gap in progress. -/
def Detector.toSpeech (d : Detector) : Detector :=
  { d with state := .speech, quietCount := 0, quietStart := none, runMixed := 0, loudCount := 0, loudStart := none,
           recorded := false }

/-- Opening a gap, recorded when the list has room; its mixed count is the run's, saturating (R122, R125). The spec
gives no next gap number after 4,294,967,295: the number grows past it and its four bytes are cut (assumption 35,
DESIGN CHOICE). -/
def Job.openGap (b : Job) : Job :=
  let d := { b.gd with state := .gap, quietCount := 0, quietStart := none, runMixed := 0 }
  if b.gaps.length < Config.gapListSize then
    let g : Gap :=
      { num := b.gd.nextGap, start := Config.window * b.gd.quietStart.getD 0, endS := none,
        mixed := sat16 b.gd.runMixed, placements := 0 }
    { b with gd := { d with recorded := true, nextGap := d.nextGap + 1 }, gaps := b.gaps ++ [g] }.report .gapOpened 1
  else { b with gd := { d with recorded := false } }.report .gapListFull 1

/-- The test after each quiet window handled in GAP_WAIT (R122). -/
def Job.gapTest (b : Job) : Job := if b.det.gapDebounce ≤ b.gd.quietCount then b.openGap else b

/-- A quiet run beginning or restarting at window w (R120, R121). -/
def Job.startRun (w : Nat) (mixed : Bool) (b : Job) : Job :=
  { b with gd := { b.gd with state := .gapWait, quietCount := 1, quietStart := some w,
                             runMixed := if mixed then 1 else 0 } }.gapTest

/-- Closing the gap with its end at the start of the loud run, then retirement (R124, R126). -/
def Job.closeGap (b : Job) : Job :=
  let e := Config.window * b.gd.loudStart.getD 0
  let b' := { b with gd := b.gd.toSpeech }
  if b.gd.recorded then
    ({ b' with gaps := mapLast (fun g => { g with endS := some e }) b.gaps }.report .gapClosed 1).retireGaps
  else b'

/-- The test after each loud window handled in GAP or SPEECH_WAIT (R124). -/
def Job.speechTest (b : Job) : Job := if b.det.speechDebounce ≤ b.gd.loudCount then b.closeGap else b

/-- One window through the detector: loud or quiet, whether it restarts a run, mixed (R119 to R124). -/
def Job.detect (w : Nat) (loud changed mixed : Bool) (b : Job) : Job :=
  let b := b.reportIf (b.gd.state == .unsettled) .levelFirst
  match b.gd.state, loud with
  | .unsettled, true | .speech, true => { b with gd := b.gd.toSpeech }
  | .unsettled, false | .speech, false => b.startRun w mixed
  | .gapWait, true => { b with gd := b.gd.toSpeech }
  | .gapWait, false =>
    if changed || (mixed && b.det.mixedRestart) then b.startRun w mixed
    else
      { b with gd := { b.gd with quietCount := b.gd.quietCount + 1,
                                 runMixed := b.gd.runMixed + if mixed then 1 else 0 } }.gapTest
  | .gap, false => b.countMixed mixed
  | .gap, true =>
    { b with gd := { b.gd with state := .speechWait, loudCount := 1, loudStart := some w } }.speechTest
  | .speechWait, false =>
    { b with gd := { b.gd with state := .gap, loudCount := 0, loudStart := none } }.countMixed mixed
  | .speechWait, true => { b with gd := { b.gd with loudCount := b.gd.loudCount + 1 } }.speechTest

/-- One window processed: the detector, then the horizon and the stored vectors (R113, R118). -/
def Job.window (w : Nat) (vector : Byte) (mixed : Bool) (b : Job) : Job :=
  let masked := b.det.masked vector
  let b' := b.detect w (b.det.isLoud vector) (b.cls.prevMasked != some masked) mixed
  { b' with cls := { b'.cls with horizon := Config.window * (w + 1), lastVector := some vector,
                                 prevMasked := some masked } }

/-- A filled window takes the last match vector under the thresholds now enabled (R114). A restored context may set
levels seen and leave that vector absent, which no rule refuses: vector 0 is then taken (assumption 36, DESIGN
CHOICE). -/
def Job.fillWindow (w : Nat) (b : Job) : Job := b.window w (b.cls.lastVector.getD 0#8 &&& b.det.sampleMask) false

/-- A lost window is processed as loud (R115). -/
def Job.loseWindow (w : Nat) (b : Job) : Job := b.window w b.det.sampleMask false

/-- A measured window (R113, R117). -/
def Job.measureWindow (w : Nat) (v : Levels) (b : Job) : Job :=
  let b' := b.window w (b.det.matchVector v) (b.det.isMixed v)
  { b' with cls := { b'.cls with levelsSeen := true } }

/-- n filled windows from w. -/
def Job.fillWindows : Nat → Nat → Job → Job
  | 0, _, b => b
  | n + 1, w, b => Job.fillWindows n (w + 1) (b.fillWindow w)

/-- n lost windows from w. -/
def Job.loseWindows : Nat → Nat → Job → Job
  | 0, _, b => b
  | n + 1, w, b => Job.loseWindows n (w + 1) (b.loseWindow w)

/-- Measured windows from w. -/
def Job.measureWindows : List Levels → Nat → Job → Job
  | [], _, b => b
  | v :: vs, w, b => Job.measureWindows vs (w + 1) (b.measureWindow w v)

/-! ### A level record (R112 to R116) -/

/-- How a record's windows divide (R113 to R115): measured windows seen already, hole windows filled and lost,
measured windows taken, windows discarded beyond the span. -/
structure LvlSplit where
  seen : Nat
  filled : Nat
  lost : Nat
  taken : Nat
  beyond : Nat
  deriving DecidableEq, Repr

/-- The division of a record of m windows from w against the expected window e and the windows of the span. -/
def Job.splitLvl (b : Job) (w m : Nat) : LvlSplit :=
  let e := b.expectedWindow
  let z := b.spanWindows
  let hole := w - e
  let holeIn := min w z - e
  let filled := if b.cls.levelsSeen then min b.det.holeLimit holeIn else 0
  let seen := min m (e - w)
  let first := max w e
  let taken := min (w + m) z - first
  { seen := seen, filled := filled, lost := holeIn - filled, taken := taken,
    beyond := (hole - holeIn) + (m - seen - taken) }

/-- The windows of a record processed in window order (R113). -/
def Job.processLvl (f : LvlFields) (b : Job) : Job :=
  let n := b.splitLvl f.first f.windows.length
  let e := b.expectedWindow
  let b1 := (b.fillWindows n.filled e).reportIf (decide (0 < n.filled)) .levelFilled
  let b2 := (b1.loseWindows n.lost (e + n.filled)).reportIf (decide (0 < n.lost)) .levelLost
  b2.measureWindows ((f.windows.drop n.seen).take n.taken) (max f.first e)

/-- A count of an LVL reply: four bytes, a free value when it does not fit them (assumption 14). -/
def countBytes (n : Nat) : List Byte :=
  if n < 2 ^ 32 then beBytes 4 n else beBytes 4 (Config.lvlCountOverflow n).toNat

/-- The counts and the horizon of an LVL reply (R112, R197). -/
def LvlSplit.bytes (n : LvlSplit) (horizon : Nat) : List Byte :=
  beBytes 4 n.taken ++ beBytes 4 n.seen ++ countBytes n.beyond ++ beBytes 4 n.filled ++ beBytes 4 n.lost ++
    beBytes 4 horizon

/-- At FIN the recorded open gap is closed at its usable end; the detector's items stay (R128). A gap of a made-up context
that starts at or beyond it is closed there too (assumption 55, DESIGN CHOICE). -/
def Job.closeAtFin (b : Job) : Job :=
  if (b.gd.state == .gap || b.gd.state == .speechWait) && b.gd.recorded then
    ({ b with gaps := mapLast (fun g => { g with endS := some b.usableEnd }) b.gaps }.report .gapClosed 1).retireGaps
  else b

end Sys2Proof.Machine
end

