-- ==== Sys2Proof/Machine/Clips.lean ====
section
/-! DEFINITION. The Placement Engine and the Envelope Generator: judging, placing, revoking and freeing clips, the
ducking envelope, gains and the settled point (R133 to R160). -/

namespace Sys2Proof.Machine

/-! ### Judging and storing (R137 to R142) -/

/-- The desired and latest start of a clip that passes the time tests (R138, R139). -/
structure Starts where
  d : Nat
  l : Nat
  clipped : Bool
  clamped : Bool
  deriving DecidableEq, Repr

/-- The judgement of a clip against the anchor, the watermark sample and the span, in that order (R138, R139). -/
def Job.judgeClip (b : Job) (ts tl dur : Nat) : Verdict Starts :=
  let anchor := b.tb.anchor.getD 0
  if tl < anchor then .refuse .late
  else
    let l := b.tb.sampleOf tl
    let d0 := b.tb.sampleOf ts
    if l < b.ws then .refuse .late
    else
      let d := max d0 b.ws
      if b.spanEnd < d + dur then .refuse .beyondSpan
      else
        .take { d := d, l := min l (b.spanEnd - dur), clipped := decide (ts < anchor) || decide (d0 < b.ws),
                clamped := decide (b.spanEnd < l + dur) }

/-- A stored clip is placed after every pending clip with d lower than or equal to its own (R141). -/
def insertClip (c : Clip) : List Clip → List Clip
  | [] => [c]
  | x :: xs => if x.d ≤ c.d then x :: insertClip c xs else c :: x :: xs

/-- The live clips of a track (R134, R145). -/
def DescTrack.live (t : DescTrack) : List Clip := t.pending ++ t.placed

/-- A PENDING entry from a clip's fields and starts. -/
def clipOf (f : ClipFields) (x : Starts) (arrival : Nat) : Clip :=
  { id := f.id, ref := f.ref, dur := f.dur, depthOv := f.depthOv.map gainOf, d := x.d, l := x.l, state := .pending,
    start := none, depth := none, gap := none, release := none, arrival := arrival }

/-- The capacity tests of a clip after the track's: quota, then pool (R140). -/
def Job.clipRoom (b : Job) (freeClips : Nat) : Option Status :=
  if b.clipQuota ≤ b.clipCount then some .quotaFull else if freeClips = 0 then some .poolFull else none

/-! ### The envelope (R152 to R157) -/

/-- A breakpoint at or beyond the span end sample is not added (R152). R152's limit of 256 follows from 64 live clips with
four breakpoints each; R172 accepts a context whose list holds up to 256 that no live clip owns, where that limit and "an
addition always finds room" cannot both hold: the addition is made, past 256 too (assumption 44, DESIGN CHOICE). -/
def addPoint (z : Nat) (pos : Nat) (gain : Int) (ps : List Breakpoint) : List Breakpoint :=
  if z ≤ pos then ps else ps ++ [⟨pos, gain⟩]

/-- A change of the last clip of a list that meets a condition. -/
def mapLastWhere (p : Clip → Bool) (f : Clip → Clip) : List Clip → List Clip
  | [] => []
  | c :: cs => if p c && !cs.any p then f c :: cs else c :: mapLastWhere p f cs

/-- A clip that sounds. -/
def Clip.sounds (c : Clip) : Bool := c.state == .placed || c.state == .overlaid

/-- The previous clip's release point, on the last PLACED or OVERLAID clip of the placed list (R153 to R155). -/
def DescTrack.setRelease (r : Nat) (t : DescTrack) : DescTrack :=
  { t with placed := mapLastWhere Clip.sounds (fun c => { c with release := some r }) t.placed }

/-- Three breakpoints: the ramp's beginning or the merge's, the start, the end. -/
def addThree (z p0 : Nat) (g0 : Int) (c : Nat) (dk : Int) (e : Nat) (ps : List Breakpoint) : List Breakpoint :=
  addPoint z e dk (addPoint z c dk (addPoint z p0 g0 ps))

/-- The breakpoints of a clip made PLACED or OVERLAID at c with depth dk and end e, by its relation to the previous
clip (R153, R154), and the release point the previous clip takes. R172 accepts a context whose final tail lies close before
a pending head, or whose breakpoints lie beyond the next clip's ramp: the breakpoints are then added as they stand, and
a position may fall (assumption 50, DESIGN CHOICE). -/
def DescTrack.envelope (z c : Nat) (dk : Int) (e : Nat) (t : DescTrack) : DescTrack :=
  let u := t.duck
  match t.prev with
  | none => { t with points := addThree z (c - u.rampDown) 0 c dk e t.points }
  | some p =>
    if t.tailState = .final then { t with points := addThree z (c - u.rampDown) 0 c dk e t.points }
    else if p.endS + u.rampUp + u.mergeGap + u.rampDown ≤ c then
      let r := p.endS + u.rampUp
      { t.setRelease r with points := addThree z (c - u.rampDown) 0 c dk e (addPoint z r 0 t.points) }
    else
      let t' := t.setRelease p.endS
      if dk = p.depth then { t' with points := addPoint z e dk (addPoint z c dk t.points) }
      else if dk < p.depth then
        { t' with points := addThree z (max (c - u.rampDown) p.endS) p.depth c dk e t.points }
      else { t' with points := addThree z (min (p.endS + u.rampUp) c) dk c dk e t.points }

/-- A clip made PLACED or OVERLAID: its breakpoints, the placed list, the previous clip with a tentative tail
(R148, R150, R153). -/
def DescTrack.sound (z : Nat) (k : Clip) (st : ClipState) (c : Nat) (dk : Int) (gap : Option Nat) (t : DescTrack) :
    DescTrack :=
  let e := c + k.dur
  let t' := t.envelope z c dk e
  { t' with
    pending := t.pending.drop 1
    placed := t'.placed ++ [{ k with state := st, start := some c, depth := some dk, gap := gap }]
    prev := some ⟨e, dk⟩
    tailState := .tentative }

/-- A DROPPED clip joins the placed list with no start, depth or breakpoint (R150). -/
def DescTrack.dropHead (k : Clip) (t : DescTrack) : DescTrack :=
  { t with pending := t.pending.drop 1, placed := t.placed ++ [{ k with state := .dropped }] }

/-- The tail made final at a position (R155). -/
def DescTrack.finishTail (z pos release : Nat) (t : DescTrack) : DescTrack :=
  { t.setRelease release with points := addPoint z pos 0 t.points, tailState := .final }

/-- The lesser of the head's desired start and Ws (R155). -/
def DescTrack.nextStart (ws : Nat) (t : DescTrack) : Nat :=
  match t.pending.head? with
  | some k => min k.d ws
  | none => ws

/-- Separation certain: a tentative tail becomes final (R155). -/
def DescTrack.testTail (z ws : Nat) (t : DescTrack) : DescTrack :=
  match t.tailState, t.prev with
  | .tentative, some p =>
    let u := t.duck
    if p.endS + u.rampUp + u.mergeGap + u.rampDown < t.nextStart ws then
      t.finishTail z (p.endS + u.rampUp) (p.endS + u.rampUp)
    else t
  | _, _ => t

/-- At FIN a tentative tail becomes final, shortened to the end sample (R155). -/
def DescTrack.finTail (z es : Nat) (t : DescTrack) : DescTrack :=
  match t.tailState, t.prev with
  | .tentative, some p =>
    let r := max p.endS (min (p.endS + t.duck.rampUp) es)
    t.finishTail z r r
  | _, _ => t

/-- The gain between the breakpoint in force and the rest of the list (R156). R172 accepts a context whose base point lies
beyond samples still to be read, where R156's p0 is above p: the formula is then taken as it stands, a quotient by 0
reads 0, and the gain may leave 0 to -160 (assumption 52, DESIGN CHOICE). -/
def gainScan (p : Nat) : Breakpoint → List Breakpoint → Int
  | cur, [] => cur.gain
  | cur, x :: xs =>
    if x.pos ≤ p then gainScan p x xs
    else cur.gain + Int.tdiv ((x.gain - cur.gain) * ((p : Int) - cur.pos)) ((x.pos : Int) - cur.pos)

/-- The gain of a track at a sample (R156). -/
def DescTrack.gainAt (t : DescTrack) (p : Nat) : Int := gainScan p t.base t.points

/-- The least of two optional bounds. -/
def optMin : Option Nat → Option Nat → Option Nat
  | some a, some b => some (min a b)
  | some a, none => some a
  | none, x => x

/-- A track's settled point; none sets no bound (R157). -/
def Job.settled (b : Job) (t : DescTrack) : Option Nat :=
  let tail := if t.tailState = .tentative then t.prev.map fun p => p.endS else none
  let head := t.pending.head?.map fun k => k.d - t.duck.rampDown
  let w := if b.state = .finishing then none else some (b.ws - t.duck.rampDown)
  optMin tail (optMin head w)

/-- Some DESC track's settled point has another value after than before (R67, R157). -/
def Job.settledMoves (before after : Job) : Bool :=
  trackNumbers.any fun i => (before.desc? i).map before.settled != (after.desc? i).map after.settled

/-! ### The placement search (R146 to R151) -/

/-- A gap tried for a clip of duration t: the search stops, tries the next gap, or places (R147). At FIN the end of
a gap counts as the lesser of its end sample and the end sample (R151). -/
def fitGaps (usable : Nat) (limit : Option Nat) (c0 l t lead tail : Nat) : List Gap → Option (Nat × Nat)
  | [] => none
  | g :: rest =>
    let c := max c0 (g.start + lead)
    if l < c then none
    else
      match g.endS with
      | some e =>
        let e := match limit with | some m => min e m | none => e
        if c + t + tail ≤ e then some (c, g.num) else fitGaps usable limit c0 l t lead tail rest
      | none => if c + t + tail ≤ usable then some (c, g.num) else none

/-- A placement counted in its gap (R125, R148). -/
def countPlacement (num : Nat) (gaps : List Gap) : List Gap :=
  gaps.map fun g => if g.num = num then { g with placements := sat16 (g.placements + 1) } else g

/-- A clip's base depth (R136). -/
def DescTrack.baseDepth (t : DescTrack) (k : Clip) : Int := k.depthOv.getD t.duck.depth

/-- The lower bound c0 of a clip's start (R147). -/
def DescTrack.lowerBound (t : DescTrack) (k : Clip) : Nat :=
  max k.d ((match t.prev with | some p => p.endS | none => 0) + t.duck.spacing)

/-- One head tried: none when there is no head or it waits, else the job with the head resolved (R147 to R151). -/
def Job.resolveHead (fin : Bool) (i : Fin 16) (b : Job) : Option Job :=
  match b.desc? i with
  | none => none
  | some t =>
    match t.pending.head? with
    | none => none
    | some k =>
      let c0 := t.lowerBound k
      let u := t.duck
      let limit := if fin then some b.endSample else none
      let fit := if k.l < c0 then none else fitGaps b.usableEnd limit c0 k.l k.dur u.lead u.tail b.gaps
      match fit with
      | some (c, num) =>
        let t' := t.sound b.spanEnd k .placed c (t.baseDepth k) (some num)
        some ((({ b with gaps := countPlacement num b.gaps }.setTrack i (.desc t')).report .clipPlaced 1).retireGaps)
      | none =>
        if fin || decide (k.l < c0) || decide (k.l + k.dur + u.tail ≤ b.cls.horizon) then
          if u.policy = .duckOver && decide (c0 ≤ k.l) && (!fin || decide (c0 + k.dur ≤ b.endSample)) then
            let dk := max (-160) (t.baseDepth k + u.extra)
            some (((b.setTrack i (.desc (t.sound b.spanEnd k .overlaid c0 dk none))).report .clipOverlaid 1).retireGaps)
          else some (((b.setTrack i (.desc (t.dropHead k))).report .clipDropped 1).retireGaps)
        else none

/-- The search goes on until the list is empty or its head waits (R146). -/
def Job.resolveHeads (fin : Bool) (i : Fin 16) : Nat → Job → Job
  | 0, b => b
  | n + 1, b =>
    match b.resolveHead fin i with
    | some b' => Job.resolveHeads fin i n b'
    | none => b

/-- The number of pending clips of a place. -/
def Job.pendingCount (i : Fin 16) (b : Job) : Nat := match b.desc? i with | some t => t.pending.length | none => 0

/-- The tail test of one track (R155). R155 makes it when W rises and when the head changes. The model makes it at every
search and every ADV, which differs only where a context R172 accepts restores a tail whose separation is already certain
(assumption 53, DESIGN CHOICE). -/
def Job.testTail (i : Fin 16) (b : Job) : Job := b.mapDesc i (DescTrack.testTail b.spanEnd b.ws)

/-- The tail test of every DESC track, at an ADV (R155; assumption 53). -/
def Job.testTails (b : Job) : Job := b.mapDescs (DescTrack.testTail b.spanEnd b.ws)

/-- The placement search of one track, then the tail test, which a changed head calls for (R146, R155; that it is made
where the head stays too is assumption 53, DESIGN CHOICE). -/
def Job.search (i : Fin 16) (b : Job) : Job := (b.resolveHeads false i (b.pendingCount i)).testTail i

/-- The placement search of every DESC track (R146). -/
def Job.searchAll (b : Job) : Job := trackNumbers.foldl (fun b i => b.search i) b

/-- Every pending clip resolved at FIN, then every tail final (R151, R155). -/
def Job.resolveAtFin (b : Job) : Job :=
  let b' := trackNumbers.foldl (fun b i => b.resolveHeads true i (b.pendingCount i)) b
  b'.mapDescs (DescTrack.finTail b'.spanEnd b'.endSample)

/-! ### Requests (R137, R142, R143) -/

/-- A CLIP at a RUNNING job: tests 1 to 9, the pending list, and the search when it becomes the head
(R137 to R141). -/
def runClip (body : List Byte) (j : Fin 8) (b : Job) (s : State) : Result :=
  match parseClip body with
  | none => refuse .badField s
  | some f =>
    match b.desc? f.track with
    | none => refuse .badTrack s
    | some t =>
      if t.live.any fun c => c.id == f.id then refuse .duplicate s
      else
        match b.judgeClip f.startMs f.latestMs f.dur with
        | .refuse st => refuse st s
        | .take x =>
          if Config.clipsPerTrack ≤ t.live.length then refuse .trackFull s
          else
            match b.clipRoom s.freeClips with
            | some st => refuseRoom st s
            | none =>
              let t' := { t with pending := insertClip (clipOf f x b.nextArrival) t.pending }
              let b1 := { b with nextArrival := b.nextArrival + 1 }.setTrack f.track (.desc t')
              let isHead := match t.pending.head? with | some h => decide (x.d < h.d) | none => true
              let b2 := if isHead then b1.search f.track else b1
              ⟨s.setJob j b2, if x.clipped then .clipped else if x.clamped then .clamped else .ok,
                beBytes 4 x.d ++ beBytes 4 x.l⟩

/-- A CLIP at a job in ANCHOR_WAIT: tests 1, 2, 3, 8 and 9, then the untimed list (R142). -/
def waitClip (body : List Byte) (j : Fin 8) (b : Job) (s : State) : Result :=
  match parseClip body with
  | none => refuse .badField s
  | some f =>
    match b.desc? f.track with
    | none => refuse .badTrack s
    | some _ =>
      if b.untimed.any (Untimed.isClipOf f.track f.id) then refuse .duplicate s
      else
        match b.clipRoom s.freeClips with
        | some st => refuseRoom st s
        | none =>
          let u : UntimedClip :=
            { track := f.track, id := f.id, ref := f.ref, startMs := f.startMs, latestMs := f.latestMs, dur := f.dur,
              depthOv := f.depthOv.map gainOf, arrival := b.nextArrival }
          ⟨s.setJob j { b with untimed := b.untimed ++ [.clip u], nextArrival := b.nextArrival + 1 }, .ok, []⟩

/-- A KREV at a RUNNING job: a PENDING clip is removed; a removed head leads to a search, and every departure to
gap retirement (R143, R144). -/
def runKrev (body : List Byte) (j : Fin 8) (b : Job) (s : State) : Result :=
  match parseRevoke body with
  | none => refuse .badField s
  | some (i, id) =>
    match b.desc? i with
    | none => refuse .badTrack s
    | some t =>
      if t.placed.any fun c => c.id == id then refuse .tooLate s
      else if t.pending.any fun c => c.id == id then
        let b1 := (b.setTrack i (.desc { t with pending := t.pending.filter fun c => c.id != id })).retireGaps
        let wasHead := match t.pending.head? with | some h => h.id == id | none => false
        ⟨s.setJob j (if wasHead then b1.search i else b1), .ok, []⟩
      else refuse .notFound s

/-- A KREV at a job in ANCHOR_WAIT (R26). -/
def waitKrev (body : List Byte) (j : Fin 8) (b : Job) (s : State) : Result :=
  match parseRevoke body with
  | none => refuse .badField s
  | some (i, id) =>
    match b.desc? i with
    | none => refuse .badTrack s
    | some _ =>
      if b.untimed.any (Untimed.isClipOf i id) then
        ⟨s.setJob j { b with untimed := b.untimed.filter fun u => !u.isClipOf i id }, .ok, []⟩
      else refuse .notFound s

/-- One untimed clip converted at ANCH (R28, R142): judged at a Ws of 0, dropped too as a sixty-fifth live clip. -/
def convertClip (u : UntimedClip) (b : Job) (n : AnchCounts) : Job × AnchCounts :=
  match b.desc? u.track, b.judgeClip u.startMs u.latestMs u.dur with
  | some t, .take x =>
    if Config.clipsPerTrack ≤ t.live.length then (b, { n with clipsDropped := n.clipsDropped + 1 })
    else
      let c : Clip :=
        { id := u.id, ref := u.ref, dur := u.dur, depthOv := u.depthOv, d := x.d, l := x.l, state := .pending,
          start := none, depth := none, gap := none, release := none, arrival := u.arrival }
      (b.setTrack u.track (.desc { t with pending := insertClip c t.pending }),
        { n with clips := n.clips + 1, clipsClipped := n.clipsClipped + if x.clipped then 1 else 0 })
  | _, _ => (b, { n with clipsDropped := n.clipsDropped + 1 })

/-! ### Freeing (R158) -/

/-- A resolved clip freed when the segment of samples a to e completes (R158); `last` says that it was the last
segment of a finishing job, whose end sample is es. -/
def Clip.freedBy (a e : Nat) (last : Bool) (es : Nat) (c : Clip) : Bool :=
  match c.state with
  | .pending => false
  | .dropped => (decide (a ≤ c.d) && decide (c.d < e)) || (last && decide (es ≤ c.d))
  | .placed | .overlaid => match c.release with | some r => decide (r < e) | none => false

/-- The breakpoints behind a sample are removed, the last of them becoming the base point (R158). -/
def dropPoints (m : Nat) : Breakpoint → List Breakpoint → Breakpoint × List Breakpoint
  | base, [] => (base, [])
  | base, p :: ps => if p.pos < m then dropPoints m p ps else (base, p :: ps)

/-- The examination of one DESC track at the completion of a segment (R158). -/
def DescTrack.retire (a e : Nat) (last : Bool) (es : Nat) (t : DescTrack) : DescTrack :=
  { t with
    placed := t.placed.filter fun c => !c.freedBy a e last es
    base := (dropPoints e t.base t.points).1
    points := (dropPoints e t.base t.points).2 }

end Sys2Proof.Machine
end

