-- ==== Sys2Proof/Machine/Segments.lean ====
section
/-! DEFINITION. The Segmenter: readiness, the records of a segment and what its completion changes (R63 to R80). -/

namespace Sys2Proof.Machine

/-! ### Readiness (R63, R65, R66) -/

/-- The end frame of the next segment: (k + 1)S, or E when that is lower in a finishing job (R63). -/
def Job.segmentEnd (b : Job) : Nat :=
  let full := (b.seg.next + 1) * b.segLen
  match b.e with
  | some e => min full e
  | none => full

/-- The next segment is the last of a finishing job (R63). -/
def Job.isLastSegment (b : Job) : Bool :=
  match b.e with
  | some e => decide (e ≤ (b.seg.next + 1) * b.segLen)
  | none => false

/-- Every clip of the job is resolved (R66). -/
def Job.clipsResolved (b : Job) : Bool := b.descTracks.all fun p => p.2.pending.isEmpty

/-- Every DESC track's settled point lies at or beyond a sample (R65). -/
def Job.settledTo (b : Job) (m : Nat) : Bool :=
  b.descTracks.all fun p => match b.settled p.2 with | some x => decide (m ≤ x) | none => true

/-- The next segment is ready (R65, R66, R67). -/
def Job.segmentReady (b : Job) : Bool :=
  match b.state with
  | .running => decide (b.segmentEnd ≤ b.w.getD 0) && b.settledTo (b.tb.firstSample b.segmentEnd)
  | .finishing =>
    decide (b.seg.emitted < b.segmentEnd) &&
      (if b.isLastSegment then b.clipsResolved else b.settledTo (b.tb.firstSample b.segmentEnd))
  | _ => false

/-! ### Records (R68, R74 to R79) -/

/-- An output record of a job: its number, the more-parts flag, the tag modulo 65,536 (R68, R176). -/
def outputRecord (kind : Byte) (j : Fin 8) (more : Bool) (tag : Nat) (body : List Byte) : LinkRecord :=
  { kind := kind, job := jobNumber j, flags := flagByte more, tag := BitVec.ofNat 16 tag, body := body }

/-- A byte of flags, bit 0 first. -/
def flagsByte (bits : List Bool) : Byte := BitVec.ofNat 8 (presence bits)

/-- A cue's entry in a SEGT part (R74, 11.7). -/
def segtEntry (tb : Timebase) (fa fb : Nat) (c : Cue) : List Byte :=
  beBytes 4 c.id ++ beBytes 4 (tb.outMs (max c.startF fa)) ++ beBytes 4 (tb.outMs (min c.endF fb)) ++
    [flagsByte [decide (c.startF < fa), decide (fb < c.endF), c.clipped, c.stretched, c.clamped]] ++
    beBytes 1 c.region.code ++ beBytes 2 c.text.length ++ c.text

/-- Whole entries filled into parts in order, as many as keep the body within its limit (R75). -/
def fillParts (room : Nat) : List (List Byte) → List (List Byte) → List (List (List Byte))
  | cur, [] => [cur]
  | cur, x :: xs =>
    if cur.flatten.length + x.length ≤ room then fillParts room (cur ++ [x]) xs else cur :: fillParts room [x] xs

/-- The cues of a track that overlap a segment, in list order (R74). -/
def overlapping (fa fb : Nat) (t : TextTrack) : List Cue :=
  t.cues.filter fun c => decide (c.startF < fb) && decide (fa < c.endF)

/-- Numbers a list from n. -/
def numbered {α : Type} (n : Nat) : List α → List (Nat × α)
  | [] => []
  | x :: xs => (n, x) :: numbered (n + 1) xs

/-- The SEGT records of one track in one segment (R68, R74, R75). -/
def segtRecords (j : Fin 8) (b : Job) (k fa fb : Nat) (i : Fin 16) (t : TextTrack) : List LinkRecord :=
  let parts := fillParts (Config.bodyMax - 9) [] ((overlapping fa fb t).map (segtEntry b.tb fa fb))
  (numbered 1 parts).map fun p =>
    outputRecord kSEGT j (decide (p.1 < parts.length)) k
      (beBytes 1 i.val ++ beBytes 4 k ++ beBytes 2 p.1 ++ beBytes 2 p.2.length ++ p.2.flatten)

/-- The sample a resolved clip stands at: its start, or a DROPPED clip's desired start (R76). -/
def Clip.position (c : Clip) : Nat := if c.state = .dropped then c.d else c.start.getD 0

/-- The sample a sounding clip ends at. -/
def Clip.endS (c : Clip) : Nat := c.start.getD 0 + c.dur

/-- A clip carried in the segment of samples a to e (R76). -/
def Clip.carried (a e : Nat) (last : Bool) (es : Nat) (c : Clip) : Bool :=
  match c.state with
  | .pending => false
  | .dropped => (decide (a ≤ c.d) && decide (c.d < e)) || (last && decide (es ≤ c.d))
  | .placed | .overlaid => decide (c.start.getD 0 < e) && decide (a < c.endS)

/-- A clip stands before another: by position, then by the order they were taken (R76). -/
def Clip.before (x y : Clip) : Bool :=
  decide (x.position < y.position) || (x.position == y.position && decide (x.arrival ≤ y.arrival))

def insertByPosition (c : Clip) : List Clip → List Clip
  | [] => [c]
  | x :: xs => if x.before c then x :: insertByPosition c xs else c :: x :: xs

/-- A track's clip entries for a segment, in order (R76). -/
def segmentClips (a e : Nat) (last : Bool) (es : Nat) (t : DescTrack) : List Clip :=
  (t.placed.filter (Clip.carried a e last es)).foldl (fun acc c => insertByPosition c acc) []

/-- The outcome code of a clip entry (11.7). -/
def ClipState.code : ClipState → Nat
  | .pending => 3
  | .placed => 0
  | .overlaid => 1
  | .dropped => 2

/-- A clip's entry in a SEGD part (R76, 11.7). -/
def segdClip (a e : Nat) (c : Clip) : List Byte :=
  beBytes 4 c.id ++ beBytes 4 c.ref ++ beBytes 1 c.state.code ++ beBytes 4 c.position ++ beBytes 4 c.dur ++
    [flagsByte [c.sounds && decide (c.position < a), c.sounds && decide (e < c.endS)]]

/-- A breakpoint in a SEGD part (R77, 11.7). -/
def segdPoint (p : Breakpoint) : List Byte := beBytes 4 p.pos ++ beBytes 1 (attOf p.gain)

/-- The breakpoints of a segment (R77). -/
def segmentPoints (a e : Nat) (t : DescTrack) : List Breakpoint :=
  t.points.filter fun p => decide (a ≤ p.pos) && decide (p.pos < e)

/-- The windows of a segment: the first, and how many (R77). -/
def firstWindow (a : Nat) : Nat := ceilDiv a Config.window
def windowCount (a e : Nat) : Nat := ceilDiv e Config.window - ceilDiv a Config.window

/-- The gain bytes of a segment (R77). A gain outside 0 to -160, which only a base point beyond the window can give, has
its attenuation cut to its 8 low bits (assumption 52, DESIGN CHOICE). -/
def gainBytes (a e : Nat) (t : DescTrack) : List Byte :=
  (List.range (windowCount a e)).map fun n =>
    BitVec.ofNat 8 (attOf (t.gainAt (Config.window * (firstWindow a + n))))

/-- An item of the SEGD material, in the order of R78. -/
inductive SegdItem where
  | clip (bs : List Byte)
  | point (bs : List Byte)
  | gain (b : Byte)
  deriving DecidableEq, Repr

def SegdItem.bytes : SegdItem → List Byte
  | .clip bs => bs
  | .point bs => bs
  | .gain b => [b]

def SegdItem.isClip : SegdItem → Bool
  | .clip _ => true
  | _ => false

def SegdItem.isPoint : SegdItem → Bool
  | .point _ => true
  | _ => false

def SegdItem.isGain : SegdItem → Bool
  | .gain _ => true
  | _ => false

/-- Items filled into parts of at most `room` bytes after the header (R78); the current part is kept reversed with
its length. -/
def fillItems (room : Nat) : List SegdItem → Nat → List SegdItem → List (List SegdItem)
  | cur, _, [] => [cur.reverse]
  | cur, n, x :: xs =>
    let k := x.bytes.length
    if n + k ≤ room then fillItems room (x :: cur) (n + k) xs else cur.reverse :: fillItems room [x] k xs

/-- How many items of a kind a part holds. -/
def countItems (p : SegdItem → Bool) (items : List SegdItem) : Nat := (items.filter p).length

/-- The SEGD records of one track in one segment (R76 to R78). The first-window field counts the gain bytes of the
parts before. -/
def segdParts (j : Fin 8) (k : Nat) (i : Fin 16) (n : Nat) : Nat → Nat → List (List SegdItem) → List LinkRecord
  | _, _, [] => []
  | part, window, items :: rest =>
    let g := countItems SegdItem.isGain items
    outputRecord kSEGD j (decide (part < n)) k
        (beBytes 1 i.val ++ beBytes 4 k ++ beBytes 2 part ++ beBytes 1 (countItems SegdItem.isClip items) ++
          beBytes 2 (countItems SegdItem.isPoint items) ++ beBytes 2 g ++
          (if g = 0 then absentBytes 4 else beBytes 4 window) ++ items.flatMap SegdItem.bytes) ::
      segdParts j k i n (part + 1) (window + g) rest

/-- The material of one DESC track for a segment of samples a to e (R76 to R78). -/
def segdItems (a e : Nat) (last : Bool) (es : Nat) (t : DescTrack) : List SegdItem :=
  (segmentClips a e last es t).map (fun c => .clip (segdClip a e c)) ++
    (segmentPoints a e t).map (fun p => .point (segdPoint p)) ++ (gainBytes a e t).map .gain

def segdRecords (j : Fin 8) (b : Job) (k a e : Nat) (last : Bool) (i : Fin 16) (t : DescTrack) : List LinkRecord :=
  let parts := fillItems (Config.bodyMax - 16) [] 0 (segdItems a e last b.endSample t)
  segdParts j k i parts.length 1 (firstWindow a) parts

/-- A track's entry in the SEGC record (R79, 11.7). -/
def segcEntry (j : Fin 8) (b : Job) (k fa fb a e : Nat) (last : Bool) (i : Fin 16) : Track → List Byte
  | .text t =>
    beBytes 1 i.val ++ [0#8] ++ t.language ++ beBytes 2 (segtRecords j b k fa fb i t).length ++
      beBytes 2 (overlapping fa fb t).length
  | .desc t =>
    beBytes 1 i.val ++ [1#8] ++ t.language ++ beBytes 2 (segdRecords j b k a e last i t).length ++
      beBytes 2 (segmentClips a e last b.endSample t).length ++ beBytes 2 (segmentPoints a e t).length ++
      beBytes 2 (windowCount a e)

/-- Whether a track has segment output on. -/
def Track.segOut : Track → Bool
  | .text t => t.segOut
  | .desc t => t.segOut

/-- The tracks with segment output on, in increasing number (R68). -/
def Job.outputTracks (b : Job) : List (Fin 16 × Track) :=
  trackNumbers.filterMap fun i =>
    match b.track i with
    | some t => if t.segOut then some (i, t) else none
    | none => none

/-- The SEGC record (R79). -/
def segcRecord (j : Fin 8) (b : Job) (k fa fb : Nat) (last : Bool) : LinkRecord :=
  let a := b.tb.firstSample fa
  let e := b.tb.firstSample fb
  outputRecord kSEGC j false k
    (beBytes 4 k ++ beBytes 4 fa ++ beBytes 4 fb ++ beBytes 4 (b.tb.outMs fa) ++ beBytes 4 (b.tb.outMs fb) ++
      beBytes 4 a ++ beBytes 4 e ++ beBytes 1 b.outputTracks.length ++
      b.outputTracks.flatMap fun p => segcEntry j b k fa fb a e last p.1 p.2)

/-- The records of the next segment, in the order of R68. -/
def Job.segmentRecords (j : Fin 8) (b : Job) : List LinkRecord :=
  let k := b.seg.next
  let fa := k * b.segLen
  let fb := b.segmentEnd
  let last := b.isLastSegment
  (b.textTracks.filter fun p => p.2.segOut).flatMap (fun p => segtRecords j b k fa fb p.1 p.2) ++
    ((b.descTracks.filter fun p => p.2.segOut).flatMap fun p =>
      segdRecords j b k (b.tb.firstSample fa) (b.tb.firstSample fb) last p.1 p.2) ++
    [segcRecord j b k fa fb last]

/-- An emission begins: its content is decided (R67, R68). -/
def Job.beginSegment (j : Fin 8) (b : Job) : Job :=
  let fl : SegFlight :=
    { index := b.seg.next, startF := b.seg.next * b.segLen, endF := b.segmentEnd, todo := b.segmentRecords j }
  { b with seg := { b.seg with flight := some fl } }

/-! ### Completion (R70, R80) -/

/-- The completed segment was the last of a finishing job. -/
def Job.wasLast (fl : SegFlight) (b : Job) : Bool := match b.e with | some e => e == fl.endF | none => false

/-- The marks move and each block examines what it holds (R70, R80). -/
def Job.completeSegment (fl : SegFlight) (b : Job) : Job :=
  let a := b.tb.firstSample fl.startF
  let e := b.tb.firstSample fl.endF
  let last := b.wasLast fl
  let b1 := { b with seg := { b.seg with next := fl.index + 1, emitted := fl.endF, flight := none, wait := false } }
  (b1.retireCues.mapDescs (DescTrack.retire a e last b.endSample)).retireGaps

end Sys2Proof.Machine
end

