-- ==== Sys2Proof/Machine/Arbiter.lean ====
section
/-! DEFINITION. The Caption Lane Scheduler: services, the slot arbiter, batches, closing and reset frames
(R81 to R107). -/

namespace Sys2Proof.Machine

/-! ### Services in use (R83) -/

/-- The four services. -/
def serviceNumbers : List Nat := [1, 2, 3, 4]

/-- The track of a service in use (R83). -/
def Job.serviceTrack (b : Job) (sv : Nat) : Option (Fin 16 × TextTrack) :=
  if b.laneSet.enabled then b.textTracks.find? fun p => p.2.service == sv else none

/-- The services in use, in increasing order (R83). -/
def Job.servicesInUse (b : Job) : List Nat := serviceNumbers.filter fun sv => (b.serviceTrack sv).isSome

/-- The record of service sv, 1 to 4 (R90). -/
def Lane.service (x : Lane) (sv : Nat) : Service := x.services.getD (sv - 1) ⟨none, none⟩

/-- Slots in a frame: P/2 (R84). -/
def LaneSettings.slots (x : LaneSettings) : Nat := x.symbols / 2

/-! ### The arbiter's working state (R90, R95) -/

/-- A caption as the arbiter reads it: id, frames, load sequence. -/
structure Caption where
  id : Nat
  startF : Nat
  endF : Nat
  steps : List LoadStep
  deriving DecidableEq, Repr

/-- A loading caption and the index of its next step, none once it is loaded. -/
structure LoadWork where
  caption : Caption
  step : Option Nat
  deriving DecidableEq, Repr

/-- A service in use, as the arbiter works on it. -/
structure ServiceWork where
  service : Nat
  displayed : Option Shown
  loading : Option LoadWork
  pending : List Caption
  deriving DecidableEq, Repr

/-- The lane state a frame starts from and leaves, with the changes and counts so far. -/
structure LaneWork where
  current : Nat
  services : List ServiceWork
  changes : List LaneChange
  late : Nat
  skipped : Nat
  deriving DecidableEq, Repr

/-- A caption from its cue (R87 to R89). -/
def Cue.caption (x : LaneSettings) (c : Cue) : Caption :=
  { id := c.id, startF := c.startF, endF := c.endF, steps := loadSteps (c.rows x) }

/-- The loading caption of a service, read from its track by its id; a record whose cue a CREV has removed is none, or a
later cue of the track that has taken its id (assumption 48, DESIGN CHOICE). -/
def loadWork (x : LaneSettings) (cues : List Cue) : Option Loading → Option LoadWork
  | none => none
  | some l => (cues.find? fun c => c.id == l.id).map fun c => ⟨c.caption x, l.step⟩

/-- A service's work record (R90): its pending captions are its track's WAITING cues in list order. -/
def Job.serviceWork (b : Job) (sv : Nat) (t : TextTrack) : ServiceWork :=
  let r := b.lane.service sv
  { service := sv, displayed := r.displayed, loading := loadWork b.laneSet t.cues r.loading,
    pending := (t.cues.filter fun c => c.lane == .waiting).map (Cue.caption b.laneSet) }

/-- The job's lane state as the arbiter takes it up (R95). -/
def Job.laneWork (b : Job) : LaneWork :=
  { current := b.lane.current,
    services := serviceNumbers.filterMap fun sv => (b.serviceTrack sv).map fun p => b.serviceWork sv p.2,
    changes := [], late := 0, skipped := 0 }

/-! ### One frame (R98 to R103) -/

/-- Step 1: captions not shown whose end frame is reached are skipped (R98). Gives the service and the ids skipped. -/
def ServiceWork.skip (f : Nat) (v : ServiceWork) : ServiceWork × List Nat :=
  let lost := (v.pending.filter fun c => decide (c.endF ≤ f)).map fun c => c.id
  let v' := { v with pending := v.pending.filter fun c => decide (f < c.endF) }
  match v.loading with
  | some l => if l.caption.endF ≤ f then ({ v' with loading := none }, l.caption.id :: lost) else (v', lost)
  | none => (v', lost)

/-- Skips over every service in use. -/
def LaneWork.skips (f : Nat) (x : LaneWork) : LaneWork :=
  let rs := x.services.map fun v => (v.service, v.skip f)
  let lost := rs.flatMap fun r => r.2.2.map fun id => (⟨r.1, id, .skipped⟩ : LaneChange)
  { x with services := rs.map fun r => r.2.1, changes := x.changes ++ lost, skipped := x.skipped + lost.length }

/-- SHOW is due (R99). -/
def ServiceWork.showDue (f : Nat) (v : ServiceWork) : Bool :=
  match v.loading with
  | some l => l.step.isNone && decide (l.caption.startF ≤ f) && decide (f < l.caption.endF)
  | none => false

/-- CLEAR is due (R99). -/
def ServiceWork.clearDue (f : Nat) (v : ServiceWork) : Bool :=
  !v.showDue f && (match v.displayed with | some d => decide (d.endF ≤ f) | none => false)

/-- The displayed caption becomes DONE. -/
def doneChange (sv : Nat) : Option Shown → List LaneChange
  | some d => [⟨sv, d.id, .done⟩]
  | none => []

/-- A SHOW placed in frame f: the service, the changes, and whether it is late (R102). -/
def ServiceWork.show (f : Nat) (v : ServiceWork) : ServiceWork × List LaneChange × Nat :=
  match v.loading with
  | some l =>
    ({ v with displayed := some ⟨l.caption.id, l.caption.endF⟩, loading := none },
      doneChange v.service v.displayed ++ [⟨v.service, l.caption.id, .shown⟩],
      if l.caption.startF < f then 1 else 0)
  | none => (v, [], 0)

/-- What the due pairs of a frame leave: slots taken, services, changes, late SHOWs. -/
structure DueWork where
  pairs : List SlotPair
  services : List ServiceWork
  changes : List LaneChange
  late : Nat
  deriving DecidableEq, Repr

/-- Step 2: the due pairs take slots in increasing service order until the slots run out (R99, R102, R103). -/
def duePairs (f : Nat) : Nat → List ServiceWork → DueWork
  | _, [] => ⟨[], [], [], 0⟩
  | 0, vs => ⟨[], vs, [], 0⟩
  | n + 1, v :: vs =>
    if v.showDue f then
      let r := v.show f
      let d := duePairs f n vs
      ⟨controlPair v.service cSHOW :: d.pairs, r.1 :: d.services, r.2.1 ++ d.changes, r.2.2 + d.late⟩
    else if v.clearDue f then
      let d := duePairs f n vs
      ⟨controlPair v.service cCLEAR :: d.pairs, { v with displayed := none } :: d.services,
        doneChange v.service v.displayed ++ d.changes, d.late⟩
    else
      let d := duePairs f (n + 1) vs
      { d with services := v :: d.services }

/-- The candidate caption a service offers for a loading slot of frame f (R100). -/
def ServiceWork.candidate (f lookahead : Nat) (v : ServiceWork) : Option Caption :=
  match v.loading with
  | some l => if l.step.isNone then none else some l.caption
  | none =>
    match v.pending.head? with
    | some c => if c.startF < f + lookahead then some c else none
    | none => none

/-- The service a loading slot goes to: earliest start frame, then the current text service, then the lowest
service number (R100). -/
def chooseService (f lookahead current : Nat) : List ServiceWork → Option (Nat × Nat)
  | [] => none
  | v :: vs =>
    match v.candidate f lookahead, chooseService f lookahead current vs with
    | none, r => r
    | some c, none => some (c.startF, v.service)
    | some c, some (st, sv) =>
      if c.startF < st ∨ (c.startF = st ∧ sv ≠ current) then some (c.startF, v.service) else some (st, sv)

/-- The progress after a step: the next index, or loaded after the last step (R101). A caption with no rows, which R88
never lets wait and R172 does not refuse, is loaded after its LOAD step (assumption 49, DESIGN CHOICE). -/
def stepAfter (steps : List LoadStep) (k : Nat) : Option Nat := if k + 1 < steps.length then some (k + 1) else none

/-- The step a service places in a loading slot, with the service, the current text service and the changes it leaves
(R101). Two loads that no rule leads to place LOAD: a restored one that stands at its LOAD step (assumption 59, DESIGN
CHOICE), and one whose step lies beyond the sequence of a later cue of its id, then loaded (assumption 48, DESIGN CHOICE). -/
def ServiceWork.load (current : Nat) (v : ServiceWork) : SlotPair × ServiceWork × Nat × List LaneChange :=
  match v.loading with
  | some l =>
    let k := l.step.getD 0
    let next := { v with loading := some { l with step := stepAfter l.caption.steps k } }
    match l.caption.steps.getD k .load with
    | .load => (controlPair v.service cLOAD, next, v.service, [])
    | .row r => (controlPair v.service (cROW r), next, v.service, [])
    | .text a b =>
      if current = v.service then ((a, b), next, current, [])
      else (controlPair v.service cRESUME, v, v.service, [])
  | none =>
    match v.pending with
    | c :: rest =>
      (controlPair v.service cLOAD, { v with loading := some ⟨c, stepAfter c.steps 0⟩, pending := rest }, v.service,
        [⟨v.service, c.id, .loading⟩])
    | [] => (fillPair, v, current, [])

/-- The service work record of a number. -/
def findService (sv : Nat) (vs : List ServiceWork) : Option ServiceWork := vs.find? fun v => v.service == sv

/-- Steps 3 and 4: the loading slots, each given afresh, then FILL (R98, R100, R101). -/
def LaneWork.loadSlots (f lookahead : Nat) : Nat → LaneWork → List SlotPair × LaneWork
  | 0, x => ([], x)
  | n + 1, x =>
    match chooseService f lookahead x.current x.services with
    | none => (List.replicate (n + 1) fillPair, x)
    | some (_, sv) =>
      match findService sv x.services with
      | none => (List.replicate (n + 1) fillPair, x)
      | some v =>
        let r := v.load x.current
        let x' := { x with services := x.services.map fun y => if y.service == sv then r.2.1 else y,
                           current := r.2.2.1, changes := x.changes ++ r.2.2.2 }
        let rest := LaneWork.loadSlots f lookahead n x'
        (r.1 :: rest.1, rest.2)

/-- Frame f decided in the four steps of R98: its slots and the lane state it leaves. -/
def LaneWork.frame (set : LaneSettings) (f : Nat) (x : LaneWork) : List SlotPair × LaneWork :=
  let x1 := x.skips f
  let d := duePairs f set.slots x1.services
  let x2 := { x1 with services := d.services, changes := x1.changes ++ d.changes, late := x1.late + d.late }
  let r := LaneWork.loadSlots f set.lookahead (set.slots - d.pairs.length) x2
  (d.pairs ++ r.1, r.2)

/-- n frames from f. -/
def LaneWork.frames (set : LaneSettings) : Nat → Nat → LaneWork → List SlotPair × LaneWork
  | 0, _, x => ([], x)
  | n + 1, f, x =>
    let r := x.frame set f
    let rest := LaneWork.frames set n (f + 1) r.2
    (r.1 ++ rest.1, rest.2)

/-! ### Records and flights (R95, R105, R106) -/

/-- The code of a LANE record kind (11.7). -/
def LaneKind.code : LaneKind → Nat
  | .batch => 0
  | .closing => 1
  | .reset => 2

/-- The symbol bytes of slots, parity included (R85). -/
def symbolBytes (p : Parity) (pairs : List SlotPair) : List Byte :=
  pairs.flatMap fun x => [parityByte p x.1, parityByte p x.2]

/-- A LANE record of some frames from `first` (R95, 11.7). -/
def laneRecord (j : Fin 8) (set : LaneSettings) (k : LaneKind) (first frames : Nat) (pairs : List SlotPair) :
    LinkRecord :=
  outputRecord kLANE j false first
    (beBytes 1 k.code ++ beBytes 4 first ++ beBytes 1 frames ++ beBytes 1 set.symbols ++ symbolBytes set.parity pairs)

/-- The service record a work record leaves. -/
def ServiceWork.record (v : ServiceWork) : Service :=
  { displayed := v.displayed, loading := v.loading.map fun l => ⟨l.caption.id, l.step⟩ }

/-- The four service records a lane state leaves; a service not in use has none of either. -/
def LaneWork.records (x : LaneWork) : List Service :=
  serviceNumbers.map fun sv =>
    match findService sv x.services with
    | some v => v.record
    | none => ⟨none, none⟩

/-- The frames a batch carries now, 0 when none is ready (R93, R104). -/
def Job.batchFrames (b : Job) : Nat :=
  if !b.laneSet.enabled || b.lane.closed then 0
  else
    match b.state with
    | .running =>
      let count := b.w.getD 0 + 1 - (b.lane.next + b.laneSet.lookahead)
      if Config.batchMin ≤ count then min count Config.batchMax else 0
    | .finishing => min (b.e.getD 0 - b.lane.next) Config.batchMax
    | _ => 0

/-- A batch of n frames begins: all of them are decided at once (R95). -/
def Job.beginBatch (j : Fin 8) (n : Nat) (b : Job) : Job :=
  let r := b.laneWork.frames b.laneSet n b.lane.next
  let fl : LaneFlight :=
    { kind := .batch, frames := n, record := laneRecord j b.laneSet .batch b.lane.next n r.1,
      outcome := { current := r.2.current, services := r.2.records, changes := r.2.changes, late := r.2.late,
                   skipped := r.2.skipped } }
  { b with lane := { b.lane with flight := some fl } }

/-- The lane state of the cue of an id changed. Where a CREV has removed the caption of a service's record, a later cue
that has taken its id is the one changed (assumption 48, DESIGN CHOICE). -/
def markCue (id : Nat) (m : LaneMark) (cues : List Cue) : List Cue :=
  cues.map fun c => if c.id == id then { c with lane := m } else c

/-- The changes of a batch or closing record taken into the cue entries (R91, R96). -/
def Job.applyChange (b : Job) (ch : LaneChange) : Job :=
  match b.serviceTrack ch.service with
  | some (i, t) => b.setTrack i (.text { t with cues := markCue ch.id ch.mark t.cues })
  | none => b

/-- What a LANE record's placement does to its job (R96, R105): n rises, the lane state takes effect, the counts are
made, and the captions now DONE or SKIPPED are examined for retirement. A CLOSING record completes the lane. -/
def Job.completeLane (fl : LaneFlight) (b : Job) : Job :=
  let o := fl.outcome
  let b1 :=
    { b with lane := { b.lane with next := b.lane.next + fl.frames, current := o.current, services := o.services,
                                   flight := none, wait := false, closed := b.lane.closed || fl.kind == .closing } }
  let b2 := o.changes.foldl Job.applyChange b1
  ((b2.report .laneLate o.late).report .laneSkipped o.skipped).retireCues

/-- Whether the lane is to close now: finishing, no record in flight, every frame before E placed (R105). -/
def Job.laneCloses (b : Job) : Bool :=
  b.laneSet.enabled && !b.lane.closed && b.state == .finishing && b.lane.flight.isNone &&
    decide (b.e.getD 0 ≤ b.lane.next)

/-- A caption WAITING or LOADING when the lane closes. -/
def Cue.unshown (c : Cue) : Bool := c.lane == .waiting || c.lane == .loading

/-- The services with a displayed caption, in increasing order (R105). -/
def Job.displaying (b : Job) : List Nat := b.servicesInUse.filter fun sv => (b.lane.service sv).displayed.isSome

/-- Slots filled up to whole frames with FILL (R105, R106). -/
def padded (slots : Nat) (pairs : List SlotPair) : List SlotPair :=
  pairs ++ List.replicate (ceilDiv pairs.length slots * slots - pairs.length) fillPair

/-- The lane closes (R105): captions not shown are SKIPPED and counted; then the CLOSING record is decided, or the
lane's part is complete at once when no service has a displayed caption. -/
def Job.closeLane (j : Fin 8) (b : Job) : Job :=
  let skipped := total (b.textTracks.map fun p => (p.2.cues.filter Cue.unshown).length)
  let b1 := b.mapTexts fun t => { t with cues := t.cues.map fun c => if c.unshown then { c with lane := .skipped } else c }
  let services := b1.lane.services.map fun (v : Service) => { v with loading := none }
  let b2 := ({ b1 with lane := { b1.lane with services := services } }.report .laneSkipped skipped).retireCues
  let ds := b.displaying
  if ds.isEmpty then { b2 with lane := { b2.lane with closed := true } }
  else
    let n := ceilDiv ds.length b.laneSet.slots
    let pairs := padded b.laneSet.slots (ds.map fun sv => controlPair sv cCLEAR)
    let changes := ds.flatMap fun sv => doneChange sv (b.lane.service sv).displayed
    let fl : LaneFlight :=
      { kind := .closing, frames := n, record := laneRecord j b.laneSet .closing b.lane.next n pairs,
        outcome := { current := b.lane.current, services := List.replicate 4 ⟨none, none⟩, changes := changes, late := 0,
                     skipped := 0 } }
    { b2 with lane := { b2.lane with flight := some fl } }

/-- The RESET record of an aborted job, none when no reset frames are placed (R106). -/
def Job.resetFlight (j : Fin 8) (b : Job) : Option LaneFlight :=
  let us := b.servicesInUse
  if b.laneSet.enabled && decide (1 ≤ b.lane.next) && !b.lane.closed && !us.isEmpty && b.state != .done then
    let n := ceilDiv us.length b.laneSet.slots
    let pairs := padded b.laneSet.slots (us.map fun sv => controlPair sv cRESET)
    some
      { kind := .reset, frames := n, record := laneRecord j b.laneSet .reset b.lane.next n pairs,
        outcome := { current := b.lane.current, services := b.lane.services, changes := [], late := 0, skipped := 0 } }
  else none

end Sys2Proof.Machine
end

