-- ==== Sys2Proof/Machine/Output.lean ====
section
/-! DEFINITION. Producers and room: emissions, batches and parts placed at once or by the rotation, what their
completion leads to, NOTE records, and the transmitter's choice (R30, R35, R67 to R70, R94 to R96, R105, R167, R168,
R181 to R183, R190 to R192). -/

namespace Sys2Proof.Machine

/-! ### What a completion leads to -/

/-- The job in a slot is being aborted, its reset frames waiting (R37). -/
def State.aborting (s : State) (j : Fin 8) : Bool := match s.abort with | some w => w.slot == j | none => false

/-- An entry that is an output record of the job in slot j. -/
def OutEntry.outputOf (j : Fin 8) (e : OutEntry) : Bool := e.cls == .output && e.owner == some j

/-- Some output record of the job in slot j is placed and not yet transmitted (R35). -/
def State.outputOut (s : State) (j : Fin 8) : Bool :=
  s.store.any (OutEntry.outputOf j) || (match s.tx with | some t => t.entry.outputOf j | none => false)

/-- Job-level part of R35's condition: last segment emitted, lane's part complete, clips resolved. -/
def Job.outputComplete (b : Job) : Bool :=
  b.state == .finishing && decide (b.seg.emitted = b.e.getD 0) && b.seg.flight.isNone &&
    (!b.laneSet.enabled || b.lane.closed) && b.clipsResolved

/-- The material a job frees on becoming DONE (R35, R152). -/
def Job.freeMaterial (b : Job) : Job :=
  { (b.mapTexts fun t => { t with cues := [] }).mapDescs
      (fun t => { t with pending := [], placed := [], points := [], base := ⟨0, 0⟩ }) with gaps := [] }

/-- A FINISHING job whose output is complete and transmitted becomes DONE and counts FINISHED (R35). -/
def State.doneTest (j : Fin 8) (s : State) : State :=
  match s.slot j with
  | .job b =>
    if b.outputComplete && !s.outputOut j && !s.aborting j then
      s.setJob j ({ b.freeMaterial with state := .done }.report .finished 1)
    else s
  | _ => s

/-- A HOLDING job whose last emission has completed becomes HELD and counts HELD (R30). -/
def Job.holdTest (b : Job) : Job :=
  if b.state == .holding && b.seg.flight.isNone && b.lane.flight.isNone then { b with state := .held }.report .held 1
  else b

/-! ### The Segmenter as a producer (R67 to R70) -/

/-- The next record of the emission leaves the list; after the last one the emission completes (R69, R70). -/
def Job.segmentPlaced (b : Job) : Job :=
  match b.seg.flight with
  | some fl =>
    match fl.todo.drop 1 with
    | [] => (b.completeSegment fl).holdTest
    | rest => { b with seg := { b.seg with flight := some { fl with todo := rest } } }
  | none => b

/-- The next record of the emission, if any. -/
def Job.segmentNext (b : Job) : Option LinkRecord := match b.seg.flight with | some fl => fl.todo.head? | none => none

/-- Placing the next record of the emission of slot j (R69). -/
def State.placeSegment (j : Fin 8) (s : State) : State :=
  match s.job? j with
  | some b =>
    match b.segmentNext with
    | some rec => ((s.placeOutput j rec false).setJob j b.segmentPlaced).doneTest j
    | none => s
  | none => s

/-- Begins emissions that are ready and places their records at once while there is room; a record that finds no
room waits (R67, R69, R182, R190). The fuel bounds the records placed. -/
def State.pumpSegments (j : Fin 8) : Nat → State → State
  | 0, s => s
  | n + 1, s =>
    match s.job? j with
    | none => s
    | some b =>
      if b.seg.wait then s
      else
        match b.seg.flight with
        | none => if b.segmentReady then State.pumpSegments j n (s.setJob j (b.beginSegment j)) else s
        | some _ =>
          if s.roomNow then State.pumpSegments j n (s.placeSegment j)
          else s.setJob j (b.countStall { b with seg := { b.seg with wait := true } })

/-! ### The Caption Lane Scheduler as a producer (R94 to R96, R105, R106) -/

/-- An aborted job's end: its slot is FREE and the ABRT reply is placed (R37, steps 4 and 5). -/
def State.finishAbort (w : AbortWait) (s : State) : State :=
  { (s.freeSlot w.slot).reply w.request .ok (beBytes 1 w.was.code ++ beBytes 1 w.discarded) with abort := none }

/-- Placing the LANE record in flight of slot j: a batch or closing record completes (R96, R105), reset frames end
the abort (R37). -/
def State.placeLane (j : Fin 8) (s : State) : State :=
  match s.job? j with
  | some b =>
    match b.lane.flight with
    | some fl =>
      let s1 := s.placeOutput j fl.record false
      match fl.kind, s.abort with
      | .reset, some w => s1.finishAbort w
      | _, _ => (s1.setJob j (b.completeLane fl).holdTest).doneTest j
    | none => s
  | none => s

/-- Begins batches and the closing that are ready and places their records at once while there is room
(R94, R95, R104, R105, R182, R190). -/
def State.pumpLane (j : Fin 8) : Nat → State → State
  | 0, s => s
  | n + 1, s =>
    match s.job? j with
    | none => s
    | some b =>
      if b.lane.wait then s
      else
        match b.lane.flight with
        | none =>
          if 0 < b.batchFrames then State.pumpLane j n (s.setJob j (b.beginBatch j b.batchFrames))
          else if b.laneCloses then State.pumpLane j n ((s.setJob j (b.closeLane j)).doneTest j)
          else s
        | some _ =>
          if s.roomNow then State.pumpLane j n (s.placeLane j)
          else s.setJob j (b.countStall { b with lane := { b.lane with wait := true } })

/-! ### The Context Engine as a producer (R167) -/

/-- Placing the next CTXP part of slot j (R167). -/
def State.placePart (j : Fin 8) (s : State) : State :=
  match s.job? j with
  | some b =>
    match b.park with
    | some p =>
      match p.todo with
      | rec :: rest =>
        let p' := { p with todo := rest, placed := p.placed + 1, wait := p.wait && !rest.isEmpty }
        (s.placeOutput j rec rest.isEmpty).setJob j { b with park := some p' }
      | [] => s
    | none => s
  | none => s

/-- Places the parts of a park at once while there is room (R167, R182, R190). -/
def State.pumpParts (j : Fin 8) : Nat → State → State
  | 0, s => s
  | n + 1, s =>
    match s.job? j with
    | none => s
    | some b =>
      match b.park with
      | none => s
      | some p =>
        if p.wait || p.todo.isEmpty then s
        else if s.roomNow then State.pumpParts j n (s.placePart j)
        else s.setJob j (b.countStall { b with park := some { p with wait := true } })

/-- The most records one event can place, and as many begins between them. -/
def pumpFuel : Nat := 2 * Config.storeSize

/-- The Segmenter's and then the scheduler's tests at an event of a job (R67, R94; the order is assumption 7). -/
def State.pump (j : Fin 8) (s : State) : State := (s.pumpSegments j pumpFuel).pumpLane j pumpFuel

/-! ### NOTE records (R191, R192) -/

/-- A claimant's NOTE record (R192). -/
def noteRecord (job : Byte) (base : Nat) (x : Notices) : LinkRecord :=
  { kind := kNOTE, job := job, flags := 0#8, tag := x.number, body := x.noteBody base }

/-- A job's pending NOTE placed with the counts as they stand, or withdrawn when every count is 0 (R192). -/
def State.placeJobNote (j : Fin 8) (s : State) : State :=
  match s.job? j with
  | some b =>
    if (b.notices.entries eventBase).isEmpty then s.setJob j { b with notices := b.notices.withdrawn }
    else
      (s.place { record := noteRecord (jobNumber j) eventBase b.notices, cls := .note, owner := some j,
                 unfinished := false, lastPart := false }).setJob j { b with notices := b.notices.placed }
  | none => s

/-- The device's pending NOTE (R192). -/
def State.placeAlertNote (s : State) : State :=
  if (s.device.entries alertBase).isEmpty then { s with device := s.device.withdrawn }
  else
    { s.place { record := noteRecord 0#8 alertBase s.device, cls := .alert, owner := none, unfinished := false,
                lastPart := false } with device := s.device.placed }

/-- A job's new NOTE: placed at once when there is room, else it waits (R182, R191). -/
def State.noteJob (s : State) (j : Fin 8) : State :=
  match s.job? j with
  | some b =>
    if b.notices.pending && !b.notices.wait then
      if s.roomNow then s.placeJobNote j
      else s.setJob j { b with notices := { b.notices with wait := true } }
    else s
  | none => s

/-- The device's new NOTE. -/
def State.noteDevice (s : State) : State :=
  if s.device.pending && !s.device.wait then
    if s.roomNow then s.placeAlertNote else { s with device := { s.device with wait := true } }
  else s

/-- The NOTEs an event has started, jobs in slot order and then the device (assumption 8). -/
def State.placeNotes (s : State) : State := (slotNumbers.foldl State.noteJob s).noteDevice

/-! ### The rotation (R182) -/

/-- The Segmenter served: its next record is placed; while more of the emission remains it goes on waiting, and after
a completion the next segment is tested (R69, R70, R182). -/
def State.serveSegment (j : Fin 8) (s : State) : State := (s.placeSegment j).pumpSegments j pumpFuel

/-- The scheduler served: its LANE record is placed, and the next is tested (R95, R96, R182). -/
def State.serveLane (j : Fin 8) (s : State) : State := (s.placeLane j).pumpLane j pumpFuel

/-- The Context Engine served: its next part is placed (R167, R182). -/
def State.servePart (j : Fin 8) (s : State) : State := s.placePart j

/-- Whether a NOTE whose turn it is would be withdrawn: every count is 0 (R192). -/
def State.noteEmpty (s : State) (c : Fin 9) : Bool :=
  match claimantSlot c with
  | some j => match s.job? j with | some b => (b.notices.entries eventBase).isEmpty | none => true
  | none => (s.device.entries alertBase).isEmpty

/-- A claimant's NOTE placed or withdrawn. -/
def State.serveNote (c : Fin 9) (s : State) : State :=
  match claimantSlot c with
  | some j => s.placeJobNote j
  | none => s.placeAlertNote

/-- A job's producer served. -/
def State.serveOutput (c : Fin 9) (f : Fin 8 → State → State) (s : State) : State :=
  match claimantSlot c with
  | some j => f j s
  | none => s

/-- The claimant and producer whose turn it is are served with the room a transmission has left (R182). A withdrawn
NOTE leaves the room to the next waiting record (assumption 10). -/
def State.serve (c : Fin 9) (p : Producer) (s : State) : State :=
  match p with
  | .segmenter => { (s.served c p).serveOutput c State.serveSegment with roomDue := false }
  | .lane => { (s.served c p).serveOutput c State.serveLane with roomDue := false }
  | .context => { (s.served c p).serveOutput c State.servePart with roomDue := false }
  | .notice =>
    if s.noteEmpty c then
      let s' := s.serveNote c
      { s' with roomDue := s'.anyWaiting }
    else { (s.served c p).serveNote c with roomDue := false }

/-- Serves the due room: withdrawn NOTEs, then one record (R182). -/
def State.serveDue : Nat → State → State
  | 0, s => s
  | n + 1, s =>
    if s.roomDue then
      match s.turn with
      | some (c, p) => State.serveDue n (s.serve c p)
      | none => { s with roomDue := false }
    else s

/-! ### The transmitter (R183) -/

/-- The frame of a record on the line (R176). -/
def LinkRecord.covered (r : LinkRecord) : List Byte :=
  [r.kind, r.job, r.flags] ++ beBytes 2 r.tag.toNat ++ beBytes 2 r.body.length ++ r.body

def LinkRecord.wire (r : LinkRecord) : List Byte := 0xA7#8 :: r.covered ++ checkBytes r.covered

/-- The first entry that meets a condition, and the store without it. -/
def takeFirst (p : OutEntry → Bool) : List OutEntry → Option (OutEntry × List OutEntry)
  | [] => none
  | e :: es =>
    if p e then some (e, es)
    else match takeFirst p es with
      | some (x, rest) => some (x, e :: rest)
      | none => none

/-- The transmitter's choice: the oldest reply unless it is an unfinished PARK reply, else the oldest alert NOTE, else
the oldest other record (R183). -/
def chooseEntry (store : List OutEntry) : Option (OutEntry × List OutEntry) :=
  let other := match takeFirst (fun e => e.cls == .alert) store with
    | some r => some r
    | none => takeFirst (fun e => e.cls != .reply) store
  match takeFirst (fun e => e.cls == .reply) store with
  | some (e, rest) => if e.unfinished then other else some (e, rest)
  | none => other

/-- The idle transmitter begins its choice while RDY_IN is asserted (R183). -/
def State.transmitBegin (s : State) : State :=
  if s.tx.isNone && s.rdyIn && s.phase == .run then
    match chooseEntry s.store with
    | some (e, rest) => { s with store := rest, tx := some { entry := e, holds := true, wire := e.record.wire } }
    | none => s
  else s

/-! ### The end of a park (R168) -/

/-- The fields of a finished PARK reply (R197). -/
def ParkFlight.bytes (p : ParkFlight) (parts : Nat) : List Byte :=
  beBytes 2 p.serial.toNat ++ beBytes 1 p.form.code ++ beBytes 1 parts ++ beBytes 1 p.discarded

/-- The unfinished PARK reply of slot j takes its status and fields in place (R168, R169). -/
def finishReply (j : Fin 8) (st : Status) (fields : List Byte) (e : OutEntry) : OutEntry :=
  if e.unfinished && e.owner == some j then
    { e with unfinished := false, owner := none,
             record := { e.record with body := e.record.body.take 1 ++ st.code :: fields } }
  else e

def State.finishPark (j : Fin 8) (st : Status) (fields : List Byte) (s : State) : State :=
  { s with store := s.store.map (finishReply j st fields) }

/-- Part n of the job in slot j has been transmitted: its PARK reply is finished and the slot is FREE (R168). -/
def State.endPark (j : Fin 8) (s : State) : State :=
  match s.job? j with
  | some b =>
    match b.park with
    | some p => (s.finishPark j .ok (p.bytes p.parts)).freeSlot j
    | none => s
  | none => s

end Sys2Proof.Machine
end

