-- ==== Sys2Proof/Machine/Context.lean ====
section
/-! DEFINITION. Contexts: their bytes (the order and sizes of R199; the fields inside an item are assumption 12), the
parts they are cut into, reading them back item by item, and the whole-context test (R164 to R167, R171, R172, R174). -/

namespace Sys2Proof.Machine

/-! ### Writing (R165, R166, R199) -/

/-- A byte list cut or filled with zeros to k bytes. -/
def padTo (k : Nat) (bs : List Byte) : List Byte := (bs ++ List.replicate k 0#8).take k

/-- A track's settings, 6 bytes. -/
def trackBytes : Option Track → List Byte
  | none => List.replicate 6 0#8
  | some (.text t) => 1#8 :: padTo 3 t.language ++ [flagByte t.segOut] ++ beBytes 1 t.service
  | some (.desc t) => 2#8 :: padTo 3 t.language ++ [flagByte t.segOut, 0#8]

/-- Lane settings, 6 bytes. -/
def LaneSettings.bytes (x : LaneSettings) : List Byte :=
  [flagByte x.enabled] ++ beBytes 1 x.symbols ++ beBytes 2 x.lookahead ++ beBytes 1 x.parity.code ++ beBytes 1 x.subst

/-- Detector settings, 16 bytes. -/
def DetSettings.bytes (x : DetSettings) : List Byte :=
  padTo 8 (x.thresholds.flatMap (beBytes 1)) ++ [x.sampleMask, x.debounceMask] ++ beBytes 1 x.speech ++
    beBytes 1 x.gapDebounce ++ beBytes 1 x.speechDebounce ++ [flagByte x.mixedRestart] ++ beBytes 2 x.holeLimit

/-- A service record, 15 bytes: displayed caption, then loading caption with its step. -/
def Service.bytes (x : Service) : List Byte :=
  (match x.displayed with
    | some d => 1#8 :: beBytes 4 d.id ++ beBytes 4 d.endF
    | none => List.replicate 9 0#8) ++
  (match x.loading with
    | some l => [if l.step.isSome then 1#8 else 2#8] ++ beBytes 4 l.id ++ beBytes 1 (l.step.getD 0)
    | none => List.replicate 6 0#8)

/-- An optional byte, 2 bytes. -/
def optByteBytes : Option Byte → List Byte
  | some v => [1#8, v]
  | none => [0#8, 0#8]

/-- The detector's items, 18 bytes. -/
def Detector.bytes (d : Detector) : List Byte :=
  beBytes 1 d.state.code ++ beBytes 1 d.quietCount ++ optBytes 4 d.quietStart ++ beBytes 2 d.runMixed ++
    beBytes 1 d.loudCount ++ optBytes 4 d.loudStart ++ [flagByte d.recorded] ++ beBytes 4 d.nextGap

def TailState.code : TailState → Nat
  | .none => 0
  | .tentative => 1
  | .final => 2

/-- A DESC track's previous clip, tail state and base point, 11 bytes. -/
def DescTrack.envelopeBytes (t : DescTrack) : List Byte :=
  beBytes 1 (t.tailState.code + if t.prev.isSome then 4 else 0) ++
    beBytes 4 (match t.prev with | some p => p.endS | none => 0) ++
    beBytes 1 (match t.prev with | some p => attOf p.depth | none => 0) ++ beBytes 4 t.base.pos ++
    beBytes 1 (attOf t.base.gain)

/-- The cue entries in the order of R166: each track's in list order, the tracks in increasing number (assumption 25,
DESIGN CHOICE). -/
def Job.allCues (b : Job) : List (Fin 16 × Cue) := b.textTracks.flatMap fun p => p.2.cues.map fun c => (p.1, c)

/-- The clip entries in the order of R166: pending lists first, then placed lists. -/
def Job.allClips (b : Job) : List (Fin 16 × Clip) :=
  (b.descTracks.flatMap fun p => p.2.pending.map fun c => (p.1, c)) ++
    b.descTracks.flatMap fun p => p.2.placed.map fun c => (p.1, c)

/-- The first item: one block of 416 bytes, with every item of R165, the park serial and the form among them (R199).
-/
def blockBytes (j : Fin 8) (serial : Word16) (f : Form) (b : Job) : List Byte :=
  padTo 416
    ([jobNumber j] ++ beBytes 4 b.tb.num ++ beBytes 2 b.tb.den ++ beBytes 4 b.tb.span ++
      beBytes 4 (b.tb.anchor.getD 0) ++ beBytes 2 b.segLen ++ beBytes 2 b.cueQuota ++ beBytes 2 b.clipQuota ++
      beBytes 4 b.notices.enables.toNat ++ beBytes 6 b.nextArrival ++
      trackNumbers.flatMap (fun i => trackBytes (b.track i)) ++ b.laneSet.bytes ++ b.det.bytes ++
      padTo 108 (b.descTracks.flatMap fun p => p.2.duck.bytes) ++
      beBytes 4 (b.w.getD 0) ++ beBytes 4 b.seg.next ++ beBytes 4 b.seg.emitted ++ beBytes 4 b.lane.next ++
      beBytes 4 b.cls.horizon ++ beBytes 1 b.lane.current ++
      serviceNumbers.flatMap (fun sv => (b.lane.service sv).bytes) ++
      [flagByte b.cls.levelsSeen] ++ optByteBytes b.cls.lastVector ++ optByteBytes b.cls.prevMasked ++ b.gd.bytes ++
      padTo 44 (b.descTracks.flatMap fun p => p.2.envelopeBytes) ++
      beBytes 2 b.allCues.length ++ beBytes 2 b.allClips.length ++ beBytes 1 b.gaps.length ++
      beBytes 2 serial.toNat ++ beBytes 1 f.code)

def LaneMark.code : LaneMark → Nat
  | .off => 0
  | .waiting => 1
  | .loading => 2
  | .shown => 3
  | .done => 4
  | .skipped => 5

/-- A cue entry, 24 + t + l bytes (R199). -/
def cueBytes (i : Fin 16) (c : Cue) : List Byte :=
  beBytes 1 i.val ++ beBytes 4 c.id ++ beBytes 1 c.region.code ++ beBytes 1 c.lane.code ++
    [flagsByte [c.clipped, c.stretched, c.clamped]] ++ beBytes 4 c.startF ++ beBytes 4 c.endF ++
    beBytes 2 c.text.length ++ beBytes 1 (textLen c.laneText) ++ beBytes 5 c.arrival ++ c.text ++ c.laneText.getD []

/-- A clip entry, 44 bytes (R199). -/
def clipBytes (i : Fin 16) (c : Clip) : List Byte :=
  beBytes 1 i.val ++ beBytes 4 c.id ++ beBytes 4 c.ref ++ beBytes 4 c.dur ++
    beBytes 1 (match c.depthOv with | some g => attOf g | none => 0) ++ beBytes 4 c.d ++ beBytes 4 c.l ++
    beBytes 1 c.state.code ++ [flagsByte [c.start.isSome, c.depth.isSome, c.gap.isSome, c.release.isSome]] ++
    beBytes 4 (c.start.getD 0) ++ beBytes 1 (match c.depth with | some g => attOf g | none => 0) ++
    beBytes 4 (c.gap.getD 0) ++ beBytes 4 (c.release.getD 0) ++ beBytes 5 c.arrival ++ [0#8, 0#8]

/-- A gap record, 16 bytes (R199). -/
def gapBytes (g : Gap) : List Byte :=
  beBytes 4 g.num ++ beBytes 4 g.start ++ optBytes 4 g.endS ++ beBytes 2 g.mixed ++ beBytes 2 g.placements

/-- A breakpoint count and the breakpoints of 5 bytes (R199). -/
def pointsBytes (ps : List Breakpoint) : List Byte := beBytes 2 ps.length ++ ps.flatMap segdPoint

/-- The context bytes of a job under a park serial in a form (R199). -/
def contextBytes (j : Fin 8) (serial : Word16) (f : Form) (b : Job) : List Byte :=
  match f with
  | .short => blockBytes j serial .short b
  | .full =>
    blockBytes j serial .full b ++ b.allCues.flatMap (fun p => cueBytes p.1 p.2) ++
      b.allClips.flatMap (fun p => clipBytes p.1 p.2) ++ b.gaps.flatMap gapBytes ++ b.descTracks.flatMap fun p => pointsBytes p.2.points

/-- Some service has a displayed caption. -/
def Job.anyDisplayed (b : Job) : Bool := b.lane.services.any fun v => v.displayed.isSome

/-- The form of a job's context (R164). -/
def Job.form (b : Job) : Form :=
  if b.cueCount = 0 ∧ b.clipCount = 0 ∧ b.gaps.isEmpty ∧ !b.anyDisplayed then .short else .full

/-- The least part count for a context's length (R199). -/
def partCount (len : Nat) : Nat := if len ≤ 1017 then 1 else ceilDiv (len - 1017) 1019 + 1

/-- The bytes cut into n + 1 parts; the last carries the rest and the context check (R167, R199). Of a length that
leaves 1,018 bytes for the last part but one, that part carries 1,018 (assumption 18). -/
def cutParts (check : List Byte) : Nat → List Byte → List (List Byte)
  | 0, bs => [bs ++ check]
  | n + 1, bs => bs.take 1019 :: cutParts check n (bs.drop 1019)

/-- The CTXP records of a context (R167, 11.7). -/
def contextRecords (j : Fin 8) (serial : Word16) (f : Form) (bytes : List Byte) : List LinkRecord :=
  let n := partCount bytes.length
  (numbered 1 (cutParts (checkBytes bytes) (n - 1) bytes)).map fun p =>
    outputRecord kCTXP j (decide (p.1 < n)) serial.toNat
      (beBytes 2 serial.toNat ++ beBytes 1 f.code ++ beBytes 1 p.1 ++ beBytes 1 n ++ p.2)

/-! ### Reading the block -/

/-- A flag byte: 0 or 1, else out of range. -/
def readFlag (n : Nat) : Option Bool := match n with | 0 => some false | 1 => some true | _ => none

/-- A track as TDEF and DUCK would take it (R41, R132). -/
def Track.ok : Track → Bool
  | .text t => trackOk false t.language t.segOut t.service
  | .desc t => trackOk true t.language t.segOut 0 && t.duck.valid

/-- A track's settings read from 6 bytes, none when out of range (R171); its lists start empty. -/
def readTrack (duck : Ducking) (bs : List Byte) : Option (Option Track) :=
  let lang := (bs.drop 1).take 3
  let inRange (t : Track) : Option (Option Track) := if t.ok then some (some t) else none
  match field bs 0 1, readFlag (field bs 4 1) with
  | 0, _ => some none
  | 1, some o => inRange (.text { language := lang, segOut := o, service := field bs 5 1, cues := [] })
  | 2, some o =>
    inRange (.desc
      { language := lang, segOut := o, duck := duck, pending := [], placed := [], prev := none, tailState := .none,
        points := [], base := ⟨0, 0⟩ })
  | _, _ => none

/-- A ducking record read from 27 bytes. -/
def readDuck (bs : List Byte) : Option Ducking :=
  match Policy.ofCode (field bs 26 1) with
  | some p =>
    let x : Ducking :=
      { depth := gainOf (field bs 0 1), extra := gainOf (field bs 1 1), rampDown := field bs 2 4, rampUp := field bs 6 4,
        mergeGap := field bs 10 4, lead := field bs 14 4, tail := field bs 18 4, spacing := field bs 22 4, policy := p }
    if x.valid then some x else none
  | none => none

def TailState.ofCode : Nat → Option TailState
  | 0 => some .none
  | 1 => some .tentative
  | 2 => some .final
  | _ => Option.none

/-- A DESC track's previous clip, tail state and base point read from 11 bytes. -/
def readEnvelope (bs : List Byte) (t : DescTrack) : Option DescTrack :=
  let n := field bs 0 1
  match TailState.ofCode (n % 4) with
  | some ts =>
    if n < 8 && (n < 4 || within 8 160 (field bs 5 1)) && field bs 10 1 ≤ 160 then
      some { t with tailState := ts, prev := if 4 ≤ n then some ⟨field bs 1 4, gainOf (field bs 5 1)⟩ else none,
                    base := ⟨field bs 6 4, gainOf (field bs 10 1)⟩ }
    else none
  | none => none

/-- The tracks read in order; each DESC track takes the next ducking record and envelope. -/
def readTracks (bs ducks envs : List Byte) : List (Fin 16) → Option (List (Fin 16 × Track))
  | [] => some []
  | i :: is =>
    let here := (bs.drop (6 * i.val)).take 6
    match readTrack Ducking.default here with
    | some (some (.desc t)) =>
      match readDuck (ducks.take 27), readEnvelope (envs.take 11) t,
        readTracks bs (ducks.drop 27) (envs.drop 11) is with
      | some u, some t', some rest => some ((i, .desc { t' with duck := u }) :: rest)
      | _, _, _ => none
    | some (some t) => (readTracks bs ducks envs is).map fun rest => (i, t) :: rest
    | some none => readTracks bs ducks envs is
    | none => none

def readService (bs : List Byte) : Option Service :=
  let displayed : Option (Option Shown) :=
    (readFlag (field bs 0 1)).map fun f => if f then some ⟨field bs 1 4, field bs 5 4⟩ else none
  let loading : Option (Option Loading) :=
    match field bs 9 1 with
    | 0 => some none
    | 1 => some (some ⟨field bs 10 4, some (field bs 14 1)⟩)
    | 2 => some (some ⟨field bs 10 4, none⟩)
    | _ => none
  match displayed, loading with
  | some d, some l => some ⟨d, l⟩
  | _, _ => none

/-- Every item of a list read, or none. -/
def readAll {α β : Type} (f : α → Option β) : List α → Option (List β)
  | [] => some []
  | x :: xs => match f x, readAll f xs with | some y, some ys => some (y :: ys) | _, _ => none

def readOptByte (bs : List Byte) : Option (Option Byte) :=
  (readFlag (field bs 0 1)).map fun f => if f then some (BitVec.ofNat 8 (field bs 1 1)) else none

def DetState.ofCode : Nat → Option DetState
  | 0 => some .unsettled
  | 1 => some .speech
  | 2 => some .gapWait
  | 3 => some .gap
  | 4 => some .speechWait
  | _ => none

/-- A field whose all-ones value is absence. -/
def readOpt4 (n : Nat) : Option Nat := if n = 0xFFFFFFFF then none else some n

def readDetector (bs : List Byte) : Option Detector :=
  match DetState.ofCode (field bs 0 1), readFlag (field bs 13 1) with
  | some st, some r =>
    some { state := st, quietCount := field bs 1 1, quietStart := readOpt4 (field bs 2 4), runMixed := field bs 6 2,
           loudCount := field bs 8 1, loudStart := readOpt4 (field bs 9 4), recorded := r, nextGap := field bs 14 4 }
  | _, _ => none

/-- Detector settings read from 16 bytes. -/
def readDet (bs : List Byte) : Option DetSettings :=
  (readFlag (field bs 13 1)).map fun m =>
    { thresholds := bitNumbers.map fun o => field bs o 1, sampleMask := BitVec.ofNat 8 (field bs 8 1),
      debounceMask := BitVec.ofNat 8 (field bs 9 1), speech := field bs 10 1, gapDebounce := field bs 11 1,
      speechDebounce := field bs 12 1, mixedRestart := m, holeLimit := field bs 14 2 }

/-- Lane settings read from 6 bytes. -/
def readLane (bs : List Byte) : Option LaneSettings :=
  match readFlag (field bs 0 1), Parity.ofCode (field bs 4 1) with
  | some e, some p =>
    some { enabled := e, symbols := field bs 1 1, lookahead := field bs 2 2, parity := p, subst := field bs 5 1 }
  | _, _ => none

/-- What the block gives: its serial and form, the job without its stored material, and how many entries follow. -/
structure Block where
  serial : Nat
  form : Form
  job : Job
  cues : Nat
  clips : Nat
  gaps : Nat
  deriving DecidableEq, Repr

/-- A track table from a list of its tracks. -/
def tableOf (ts : List (Fin 16 × Track)) : Vector (Option Track) 16 :=
  ts.foldl (fun v p => v.set p.1 (some p.2)) (Vector.replicate 16 none)

/-- The positions the block names lie within the span: a displayed caption's end frame, a previous clip's end and a
base point (R171; the ranges of frames and samples are those of 00_scope.md, Conventions). -/
def Job.blockWithinSpan (b : Job) : Bool :=
  (b.lane.services.all fun v => v.displayed.all fun d => decide (d.endF ≤ b.tb.span)) &&
    b.descTracks.all fun p => (p.2.prev.all fun x => decide (x.endS ≤ b.spanEnd)) && decide (p.2.base.pos ≤ b.spanEnd)

/-- The field ranges of the block's settings, runs, horizon and positions (R171), each field on its own. -/
def Job.blockRanges (b : Job) : Bool :=
  within 1 1001 b.tb.den && within 10 240000 b.tb.num && decide (1 ≤ b.tb.span) && within 8 720 b.segLen &&
    within 16 4096 b.cueQuota && within 4 1024 b.clipQuota && b.laneSet.valid && within 0 7 b.det.speech &&
    within 1 250 b.det.gapDebounce && within 1 250 b.det.speechDebounce && within 1 500 b.det.holeLimit &&
    decide (b.notices.enables &&& ~~~eventSet = 0#32) && decide (b.lane.current ≤ 4) &&
    decide (b.gd.quietCount ≤ 250) && decide (b.gd.loudCount ≤ 250) && decide (b.cls.horizon % Config.window = 0) &&
    b.blockWithinSpan

/-- The block read (R165, R199); none when a field is out of range. The job stands HELD with its latch empty and no
count (R174). The first byte, the number of the job that was parked, is not read (assumption 51, DESIGN CHOICE), and any
next arrival number is taken (assumption 54, DESIGN CHOICE). -/
def readBlock (bs : List Byte) : Option Block :=
  match readTracks (bs.drop 31) (bs.drop 149) (bs.drop 361) trackNumbers, readLane (bs.drop 127), readDet (bs.drop 133),
    readAll (fun n => readService (bs.drop (278 + 15 * n))) [0, 1, 2, 3] with
  | some ts, some ls, some det, some svs =>
    match readFlag (field bs 338 1), readOptByte (bs.drop 339), readOptByte (bs.drop 341), readDetector (bs.drop 343),
      Form.ofCode (field bs 412 1) with
    | some seen, some lv, some pm, some gd, some f =>
      let b : Job :=
        { state := .held
          tb := { num := field bs 1 4, den := field bs 5 2, span := field bs 7 4, anchor := some (field bs 11 4) }
          segLen := field bs 15 2, cueQuota := field bs 17 2, clipQuota := field bs 19 2
          tracks := tableOf ts, laneSet := ls, det := det
          w := some (field bs 257 4), e := none, untimed := [], latch := []
          nextArrival := field bs 25 6
          seg := { next := field bs 261 4, emitted := field bs 265 4, flight := none, wait := false }
          lane := { next := field bs 269 4, current := field bs 277 1, services := svs, flight := none, wait := false,
                    closed := false }
          cls := { horizon := field bs 273 4, levelsSeen := seen, lastVector := lv, prevMasked := pm }
          gd := gd, gaps := [], notices := Notices.opened (BitVec.ofNat 32 (field bs 21 4)), park := none
          lastProducer := .notice }
      if b.blockRanges then some ⟨field bs 410 2, f, b, field bs 405 2, field bs 407 2, field bs 409 1⟩ else none
    | _, _, _, _, _ => none
  | _, _, _, _ => none

/-! ### Reading the stored material -/

/-- The context read so far: the block's job, the items, what they allocate, and the bytes left. -/
structure Reading where
  job : Job
  cues : List (Fin 16 × Cue)
  clips : List (Fin 16 × Clip)
  gaps : List Gap
  points : List (List Breakpoint)
  blocks : Nat
  rest : List Byte
  deriving DecidableEq, Repr

/-- A failure, a reading that ran out of bytes inside an item, or a reading that goes on. -/
inductive Read where
  | fail (st : Status)
  | stop (r : Reading)
  | go (r : Reading)

def Read.bind (x : Read) (f : Reading → Read) : Read :=
  match x with
  | .go r => f r
  | x => x

def LaneMark.ofCode : Nat → Option LaneMark
  | 0 => some .off
  | 1 => some .waiting
  | 2 => some .loading
  | 3 => some .shown
  | 4 => some .done
  | 5 => some .skipped
  | _ => none

/-- A cue entry read from its bytes; none when a field is out of range (R171). -/
def readCue (bs : List Byte) : Option (Fin 16 × Cue) :=
  let n := field bs 0 1
  let m := field bs 7 1
  let t := field bs 16 2
  let l := field bs 18 1
  if h : n < 16 then
    match Region.ofCode (field bs 5 1), LaneMark.ofCode (field bs 6 1) with
    | some r, some lm =>
      let c : Cue :=
        { id := field bs 1 4, region := r, text := (bs.drop 24).take t, laneText := laneTextOf ((bs.drop (24 + t)).take l),
          startF := field bs 8 4, endF := field bs 12 4, clipped := m.testBit 0, stretched := m.testBit 1,
          clamped := m.testBit 2, lane := lm, arrival := field bs 19 5 }
      if m < 8 && decide (c.startF < c.endF) then some (⟨n, h⟩, c) else none
    | _, _ => none
  else none

/-- The pools as an assembly finds them without its own entries, and the context's quotas (R171). -/
structure Limits where
  cues : Nat
  blocks : Nat
  clips : Nat
  deriving DecidableEq, Repr

/-- n cue entries read, each allocated with its last byte: ranges, its end frame's against the block's span among
them, then quota, then pools (R171). -/
def readCues (x : Limits) : Nat → Reading → Read
  | 0, r => .go r
  | n + 1, r =>
    let t := field r.rest 16 2
    let l := field r.rest 18 1
    if r.rest.length < 24 then .stop r
    else if !within 1 480 t || !within 0 122 l then .fail .badContext
    else if r.rest.length < 24 + t + l then .stop r
    else
      match readCue r.rest with
      | none => .fail .badContext
      | some (i, c) =>
        let k := r.blocks + blocksOf c.text c.laneText
        if r.job.tb.span < c.endF then .fail .badContext
        else if r.job.cueQuota ≤ r.cues.length then .fail .quotaFull
        else if x.cues ≤ r.cues.length ∨ x.blocks < k then .fail .poolFull
        else readCues x n { r with cues := r.cues ++ [(i, c)], blocks := k, rest := r.rest.drop (24 + t + l) }

def ClipState.ofCode : Nat → Option ClipState
  | 0 => some .placed
  | 1 => some .overlaid
  | 2 => some .dropped
  | 3 => some .pending
  | _ => none

/-- The fields a clip's state sets (R136). -/
def Clip.fieldsSet (c : Clip) : Bool :=
  match c.state with
  | .pending | .dropped => c.start.isNone && c.depth.isNone && c.gap.isNone && c.release.isNone
  | .placed => c.start.isSome && c.depth.isSome && c.gap.isSome
  | .overlaid => c.start.isSome && c.depth.isSome && c.gap.isNone

/-- A clip entry read from its bytes; none when a field is out of range (R171). -/
def readClip (bs : List Byte) : Option (Fin 16 × Clip) :=
  let n := field bs 0 1
  let ov := field bs 13 1
  let m := field bs 23 1
  if h : n < 16 then
    match ClipState.ofCode (field bs 22 1) with
    | some st =>
      let c : Clip :=
        { id := field bs 1 4, ref := field bs 5 4, dur := field bs 9 4,
          depthOv := if ov = 0 then none else some (gainOf ov), d := field bs 14 4, l := field bs 18 4, state := st,
          start := present m 0 (field bs 24 4), depth := (present m 1 (field bs 28 1)).map gainOf,
          gap := present m 2 (field bs 29 4), release := present m 3 (field bs 33 4), arrival := field bs 37 5 }
      if m < 16 && (ov = 0 || within 8 160 ov) && within 480 2880000 c.dur && decide (c.d ≤ c.l) &&
          (c.depth.isNone || within 8 160 (field bs 28 1)) && c.fieldsSet then some (⟨n, h⟩, c)
      else none
    | none => none
  else none

/-- A clip's samples lie within the span, whose end sample is z: wherever it may start, and where it starts, it sounds
within the span (R139, R171), and so lies its release point. -/
def Clip.withinSpan (z : Nat) (c : Clip) : Bool :=
  decide (c.l + c.dur ≤ z) && (c.start.all fun n => decide (n + c.dur ≤ z)) && c.release.all fun n => decide (n ≤ z)

/-- n clip entries read, each allocated with its last byte: ranges, its samples' against the block's span among them,
then quota, then pool (R171). -/
def readClips (x : Limits) : Nat → Reading → Read
  | 0, r => .go r
  | n + 1, r =>
    if r.rest.length < 44 then .stop r
    else
      match readClip r.rest with
      | none => .fail .badContext
      | some c =>
        if !c.2.withinSpan r.job.spanEnd then .fail .badContext
        else if r.job.clipQuota ≤ r.clips.length then .fail .quotaFull
        else if x.clips ≤ r.clips.length then .fail .poolFull
        else readClips x n { r with clips := r.clips ++ [c], rest := r.rest.drop 44 }

/-- A gap record read from its bytes: its samples are those of windows, its end after its start (R125, R171). -/
def readGap (bs : List Byte) : Option Gap :=
  let g : Gap :=
    { num := field bs 0 4, start := field bs 4 4, endS := readOpt4 (field bs 8 4), mixed := field bs 12 2,
      placements := field bs 14 2 }
  let endOk := match g.endS with | some e => decide (g.start < e) && e % Config.window == 0 | none => true
  if g.start % Config.window == 0 && endOk then some g else none

/-- A gap's samples lie within the span, whose end sample is z (R171): a gap starts and ends at windows of the span. -/
def Gap.withinSpan (z : Nat) (g : Gap) : Bool := decide (g.start ≤ z) && g.endS.all fun n => decide (n ≤ z)

/-- n gap records read, their samples tested against the block's span too (R171). -/
def readGaps : Nat → Reading → Read
  | 0, r => .go r
  | n + 1, r =>
    if r.rest.length < 16 then .stop r
    else
      match readGap r.rest with
      | none => .fail .badContext
      | some g =>
        if g.withinSpan r.job.spanEnd then readGaps n { r with gaps := r.gaps ++ [g], rest := r.rest.drop 16 }
        else .fail .badContext

/-- n breakpoints of 5 bytes; none when a gain is out of range. -/
def readPoints : Nat → List Byte → Option (List Breakpoint)
  | 0, _ => some []
  | n + 1, bs =>
    if field bs 4 1 ≤ 160 then
      (readPoints n (bs.drop 5)).map fun ps => ⟨field bs 0 4, gainOf (field bs 4 1)⟩ :: ps
    else none

/-- The breakpoint lists of n DESC tracks, their positions within the span (R152, R171). -/
def readLists : Nat → Reading → Read
  | 0, r => .go r
  | n + 1, r =>
    let k := field r.rest 0 2
    if r.rest.length < 2 then .stop r
    else if Config.breakpointsPerTrack < k then .fail .badContext
    else if r.rest.length < 2 + 5 * k then .stop r
    else
      match readPoints k (r.rest.drop 2) with
      | none => .fail .badContext
      | some ps =>
        if ps.all fun p => decide (p.pos ≤ r.job.spanEnd) then
          readLists n { r with points := r.points ++ [ps], rest := r.rest.drop (2 + 5 * k) }
        else .fail .badContext

/-- A context read as far as its bytes go; none before the block is whole (R171, R199). A block that names another
serial or form than its parts is refused (assumption 37, DESIGN CHOICE). R162 parks no FULL context of more than 64 cue
or clip entries, and R171 and R172 test neither count: one that names more is read as far as quotas and pools allow
(assumption 45, DESIGN CHOICE). A SHORT context whose block names cue, clip or gap entries is refused too, though R172's
Form test does not list it (assumption 56, DESIGN CHOICE). -/
def readContext (x : Limits) (serial : Word16) (f : Form) (bs : List Byte) : Option Read :=
  if bs.length < 416 then none
  else
    match readBlock bs with
    | none => some (.fail .badContext)
    | some k =>
      let r : Reading :=
        { job := k.job, cues := [], clips := [], gaps := [], points := [], blocks := 0, rest := bs.drop 416 }
      if k.serial ≠ serial.toNat ∨ k.form ≠ f then some (.fail .badContext)
      else
        match f with
        | .short => some (if k.cues + k.clips + k.gaps = 0 then .go r else .fail .badContext)
        | .full =>
          some ((((readCues x k.cues r).bind (readClips x k.clips)).bind (readGaps k.gaps)).bind
            (readLists k.job.descTracks.length))

/-- The entries and blocks a reading has allocated (R171). -/
def Reading.cueCount (r : Reading) : Nat := r.cues.length
def Reading.clipCount (r : Reading) : Nat := r.clips.length

/-! ### The job a context makes (R174) -/

/-- The items of a track. -/
def itemsOf {α : Type} (i : Fin 16) (xs : List (Fin 16 × α)) : List α :=
  (xs.filter fun p => p.1 == i).map fun p => p.2

/-- The job of a reading: its lists stand in the order the context gives (R174). -/
def Reading.build (r : Reading) : Job :=
  let b1 := trackNumbers.foldl (fun b i => b.mapText i fun t => { t with cues := itemsOf i r.cues }) r.job
  let b2 := trackNumbers.foldl (fun b i => b.mapDesc i fun t =>
    { t with pending := (itemsOf i r.clips).filter fun c => c.state == .pending,
             placed := (itemsOf i r.clips).filter fun c => c.state != .pending }) b1
  let b3 := ((b2.descTracks.map fun p => p.1).zip r.points).foldl
    (fun b p => b.mapDesc p.1 fun t => { t with points := p.2 }) b2
  { b3 with gaps := r.gaps }

/-! ### The whole-context test (R172) -/

/-- No two of a list are equal. -/
def distinct : List Nat → Bool
  | [] => true
  | x :: xs => !xs.contains x && distinct xs

/-- Neighbours of a list stand in a relation. -/
def chain {α : Type} (p : α → α → Bool) : List α → Bool
  | [] => true
  | [_] => true
  | a :: b :: rest => p a b && chain p (b :: rest)

/-- Settings (R172): what JOPN, TDEF, LSET, DSET and DUCK would take, R42's conflicts included. -/
def Job.settingsOk (b : Job) : Bool :=
  rateOk b.tb.num b.tb.den && within 1 (spanLimit b.tb.num b.tb.den) b.tb.span && within 8 720 b.segLen &&
    within 16 4096 b.cueQuota && within 4 1024 b.clipQuota && b.laneSet.valid && b.det.valid &&
    (trackNumbers.all fun i => match b.track i with | some t => t.ok | none => true) &&
    decide (b.descTracks.length ≤ 4) &&
    distinct ((b.textTracks.map fun p => p.2.service).filter fun sv => sv != 0)

/-- Progress (R172, R64). -/
def Job.progressOk (b : Job) : Bool :=
  let w := b.w.getD 0
  decide (w ≤ b.tb.span) && decide (b.seg.emitted = b.seg.next * b.segLen) && decide (b.seg.emitted ≤ w) &&
    (if b.laneSet.enabled then decide (b.lane.next = 0) || decide (b.lane.next + b.laneSet.lookahead ≤ w + 1)
     else decide (b.lane.next = 0)) &&
    decide (b.cls.horizon % Config.window = 0) && decide (b.cls.horizon ≤ b.spanEnd + 959)

/-- The last gap is open. -/
def Job.hasOpenGap (b : Job) : Bool := match b.gaps.getLast? with | some g => g.endS.isNone | none => false

/-- Detector (R172, R119): counts in range, no more mixed windows in the quiet run than windows, run starts in their
states alone, the flag and the open gap agree. Outside GAP and SPEECH_WAIT the flag is not in force: set there, it is
accepted in a FULL context and refused as a recorded gap in a SHORT one (assumption 38, DESIGN CHOICE). -/
def Job.detectorOk (b : Job) : Bool :=
  let d := b.gd
  decide (d.quietCount ≤ 250) && decide (d.loudCount ≤ 250) && decide (d.runMixed ≤ d.quietCount) &&
    d.quietStart.isSome == (d.state == .gapWait) && d.loudStart.isSome == (d.state == .speechWait) &&
    b.hasOpenGap == (d.recorded && (d.state == .gap || d.state == .speechWait))

/-- Consecutive gaps: the first is closed, the second starts later and at or beyond its end, and has a higher number (R125).
That a detector's gaps are at least 960 × Ds samples apart is not read as part of the order UNPK tests (assumption 57,
DESIGN CHOICE). -/
def gapsInOrder (x y : Gap) : Bool :=
  (match x.endS with | some e => decide (e ≤ y.start) | none => false) && decide (x.start < y.start) &&
    decide (x.num < y.num)

/-- Live PLACED clips naming a gap (R125). -/
def Job.placedIn (b : Job) (num : Nat) : Nat :=
  total (b.descTracks.map fun p => (p.2.placed.filter fun c => c.state == .placed && c.gap == some num).length)

/-- Gap List (R172, R125). R172 relates no gap to the audio horizon: a made-up context's gap may start or end beyond it,
so that a later gap may stand before it, and an open one may close at or before its start (assumption 55, DESIGN CHOICE).
-/
def Job.gapsOk (b : Job) : Bool :=
  decide (b.gaps.length ≤ Config.gapListSize) && chain gapsInOrder b.gaps &&
    b.gaps.all fun g => decide (g.num < b.gd.nextGap) && decide (b.placedIn g.num ≤ g.placements)

/-- The order of R48. -/
def cuesInOrder (x y : Cue) : Bool :=
  decide (x.startF < y.startF) || (x.startF == y.startF && decide (x.arrival < y.arrival))

/-- Cues (R172). A cue with no rows may stand in any lane state of a lane track, which R172 does not refuse though R88
makes it DONE (assumption 49, DESIGN CHOICE). Nor does R172 hold an arrival number against those of other lists or the next
one (assumption 54, DESIGN CHOICE). -/
def Job.cuesOk (b : Job) (items : List (Fin 16 × Cue)) : Bool :=
  (items.all fun p => (b.text? p.1).isSome) &&
    b.textTracks.all fun p =>
      let t := p.2
      distinct (t.cues.map fun c => c.id) && chain cuesInOrder t.cues &&
        t.cues.all fun c =>
          decide (c.startF < c.endF) && decide (c.endF ≤ b.tb.span) &&
            (if b.onLane t then c.lane != .off else c.lane == .off && c.laneText.isNone) && !b.retired t c

/-- One service of R172's lane test. A displayed caption is its cue only with that cue's end frame, which R172 does not name
(assumption 58, DESIGN CHOICE). A loading caption may stand at its LOAD step, index 0, which R101 never leaves and R172 does
not refuse (assumption 59, DESIGN CHOICE). -/
def Job.serviceOk (b : Job) (sv : Nat) : Bool :=
  let r := b.lane.service sv
  match b.serviceTrack sv with
  | none => r.displayed.isNone && r.loading.isNone
  | some (_, t) =>
    (match r.displayed with
      | some d => t.cues.any fun c => c.id == d.id && c.endF == d.endF && c.lane == .shown
      | none => true) &&
    (match r.loading with
      | some l => t.cues.any fun c => c.id == l.id && c.lane == .loading &&
          (match l.step with | some k => decide (k < loadCost (c.rows b.laneSet)) | none => true)
      | none => true) &&
    t.cues.all fun c =>
      (c.lane != .shown || (match r.displayed with | some d => d.id == c.id | none => false)) &&
        (c.lane != .loading || (match r.loading with | some l => l.id == c.id | none => false))

/-- Lane (R172). -/
def Job.laneOk (b : Job) : Bool :=
  serviceNumbers.all b.serviceOk && (b.lane.current == 0 || b.servicesInUse.contains b.lane.current)

/-- The gap a PLACED clip names is held, or already retired (R172). -/
def Job.gapNamed (b : Job) (num : Nat) : Bool :=
  (b.gaps.any fun g => g.num == num) ||
    (match b.gaps.head? with | some g => decide (num < g.num) | none => decide (num < b.gd.nextGap))

/-- The order of R141. -/
def clipsInOrder (x y : Clip) : Bool := decide (x.d < y.d) || (x.d == y.d && decide (x.arrival < y.arrival))

/-- Clips (R172). Arrival numbers are not held against those of other lists or the next one (assumption 54, DESIGN
CHOICE). -/
def Job.clipsOk (b : Job) (items : List (Fin 16 × Clip)) : Bool :=
  (items.all fun p => (b.desc? p.1).isSome) &&
    b.descTracks.all fun p =>
      let t := p.2
      distinct (t.live.map fun c => c.id) && decide (t.live.length ≤ Config.clipsPerTrack) &&
        chain clipsInOrder t.pending &&
        chain (fun x y => decide (x.start.getD 0 < y.start.getD 0)) (t.placed.filter Clip.sounds) &&
        t.placed.all fun c =>
          (!c.sounds || (decide (c.d ≤ c.start.getD 0) && decide (c.start.getD 0 ≤ c.l))) &&
            (c.state != .placed || b.gapNamed (c.gap.getD 0)) && !c.freedBy 0 b.emittedSample false 0

/-- The last clip of a track that sounds. -/
def DescTrack.lastSound (t : DescTrack) : Option Clip := (t.placed.filter Clip.sounds).getLast?

/-- Envelope (R172). -/
def DescTrack.envelopeOk (t : DescTrack) : Bool :=
  decide (t.points.length ≤ Config.breakpointsPerTrack) && chain (fun x y => decide (x.pos ≤ y.pos)) t.points &&
    (t.points.all fun p => decide (p.gain ≤ 0) && decide (-160 ≤ p.gain)) &&
    (match t.lastSound with
      | some c => t.prev == some ⟨c.endS, c.depth.getD 0⟩
      | none => true) &&
    (t.tailState != .tentative || (match t.lastSound with | some c => c.release.isNone | none => false)) &&
    (t.tailState == .none) == t.prev.isNone

/-- Form (R172, R164). -/
def Job.formOk (f : Form) (b : Job) : Bool :=
  match f with
  | .short =>
    !b.anyDisplayed && !b.gd.recorded && b.descTracks.all fun p => p.2.tailState != .tentative
  | .full => b.cueCount != 0 || b.clipCount != 0 || !b.gaps.isEmpty || b.anyDisplayed

/-- The whole-context test on the job a reading builds (R172). -/
def Reading.ok (f : Form) (r : Reading) : Bool :=
  let b := r.build
  b.settingsOk && b.progressOk && b.detectorOk && b.gapsOk && b.cuesOk r.cues && b.laneOk && b.clipsOk r.clips &&
    (b.descTracks.all fun p => p.2.envelopeOk) && b.formOk f

end Sys2Proof.Machine
end

