-- ==== Sys2Proof/Machine/Jobs.lean ====
section
/-! DEFINITION. Job Control: the requests that open, describe, start, hold, finish, release and query a job, and the
data requests with the latch (R15 to R40, R42, R49, R58, R82, R109, R112, R130, R133, R137, R143). -/

namespace Sys2Proof.Machine

/-! ### Opening and describing (R22, R42, R82, R109, R133) -/

/-- The job record JOPN makes (R18, R22, R23). -/
def openedJob (f : JopnFields) : Job :=
  { state := .opened
    tb := { num := f.num, den := f.den,
            span := match f.span with | some n => min n (spanLimit f.num f.den) | none => spanLimit f.num f.den,
            anchor := none }
    segLen := f.segLen, cueQuota := f.cueQuota.getD 512, clipQuota := f.clipQuota.getD 128
    tracks := Vector.replicate 16 none, laneSet := LaneSettings.default, det := DetSettings.default
    w := none, e := none, untimed := [], latch := [], nextArrival := 0
    seg := { next := 0, emitted := 0, flight := none, wait := false }
    lane := { next := 0, current := 0, services := List.replicate 4 ⟨none, none⟩, flight := none, wait := false,
              closed := false }
    cls := { horizon := 0, levelsSeen := false, lastVector := none, prevMasked := none }
    gd := { state := .unsettled, quietCount := 0, quietStart := none, runMixed := 0, loudCount := 0, loudStart := none,
            recorded := false, nextGap := 0 }
    gaps := [], notices := Notices.opened defaultEnables, park := none, lastProducer := .notice }

/-- The span was clamped to the 24-hour limit (R3). -/
def JopnFields.spanClamped (f : JopnFields) : Bool :=
  match f.span with
  | some n => decide (spanLimit f.num f.den < n)
  | none => false

/-- JOPN (R22). -/
def doJopn (r : LinkRecord) (s : State) : Result :=
  withSlot r s fun j =>
    match s.slot j with
    | .free =>
      match parseJopn r.body with
      | none => refuse .badField s
      | some f =>
        ⟨s.setJob j (openedJob f), if f.spanClamped then .clamped else .ok, beBytes 4 (openedJob f).tb.span⟩
    | _ => refuse .badState s

/-- A request taken in OPEN (R21). -/
def inOpen (st : JobState) : Bool := st == .opened

/-- The conflicts of a definition with the job's other tracks (R42, test 2). -/
def Job.tdefConflict (f : TdefFields) (b : Job) : Bool :=
  if f.desc then
    decide (4 ≤ (b.descTracks.filter fun p => p.1 != f.track).length)
  else f.service != 0 && b.textTracks.any fun p => p.1 != f.track && p.2.service == f.service

/-- The track a definition makes (R42): a DESC track has the default ducking parameters. -/
def TdefFields.toTrack (f : TdefFields) : Track :=
  if f.desc then
    .desc { language := f.language, segOut := f.segOut, duck := Ducking.default, pending := [], placed := [],
            prev := none, tailState := .none, points := [], base := ⟨0, 0⟩ }
  else .text { language := f.language, segOut := f.segOut, service := f.service, cues := [] }

/-- TDEF (R42). -/
def doTdef (r : LinkRecord) (s : State) : Result :=
  withSlot r s fun j => withJobIn inOpen s j fun b =>
    match parseTdef r.body with
    | none => refuse .badField s
    | some f =>
      if b.tdefConflict f then refuse .badTrack s
      else
        let b' := b.setTrack f.track f.toTrack
        ⟨s.setJob j b', .ok, beBytes 1 b'.trackCount ++ beBytes 1 b'.descTracks.length⟩

/-- LSET (R82). -/
def doLset (r : LinkRecord) (s : State) : Result :=
  withSlot r s fun j => withJobIn inOpen s j fun b =>
    match parseLset r.body with
    | none => refuse .badField s
    | some x => ⟨s.setJob j { b with laneSet := x }, .ok, []⟩

/-- The states DSET is taken in (R21). -/
def inDset : JobState → Bool
  | .opened | .anchorWait | .running | .holding | .held => true
  | .parking | .finishing | .done => false

/-- DSET (R109). -/
def doDset (r : LinkRecord) (s : State) : Result :=
  withSlot r s fun j => withJobIn inDset s j fun b =>
    match parseDset b.det r.body with
    | none => refuse .badField s
    | some x => ⟨s.setJob j { b with det := x }, .ok, []⟩

/-- The states DUCK is taken in (R21). -/
def inDuck (st : JobState) : Bool := st == .opened || st == .anchorWait

/-- DUCK (R133). -/
def doDuck (r : LinkRecord) (s : State) : Result :=
  withSlot r s fun j => withJobIn inDuck s j fun b =>
    match parseDuck r.body with
    | none => refuse .badField s
    | some f =>
      match b.desc? f.track with
      | none => refuse .badTrack s
      | some t =>
        let u := f.apply t.duck
        ⟨s.setJob j (b.setTrack f.track (.desc { t with duck := u })), .ok, u.bytes⟩

/-! ### Starting (R24 to R28) -/

/-- Entering RUNNING for the first time (R25): the progress starts from the beginning of the programme. -/
def Job.enterRunning (anchor : Nat) (b : Job) : Job :=
  { b with
    state := .running
    tb := { b.tb with anchor := some anchor }
    w := some 0
    seg := { next := 0, emitted := 0, flight := none, wait := false }
    lane := { next := 0, current := 0, services := List.replicate 4 ⟨none, none⟩, flight := none, wait := false,
              closed := false }
    cls := { horizon := 0, levelsSeen := false, lastVector := none, prevMasked := none }
    gd := { state := .unsettled, quietCount := 0, quietStart := none, runMixed := 0, loudCount := 0, loudStart := none,
            recorded := false, nextGap := 0 }
    gaps := [] }

/-- JGO (R24). R19, R24 and R196 do not order a wrong body length against a job without a track: the length is tested
first, with the body's other fields (assumption 41, DESIGN CHOICE). -/
def doJgo (r : LinkRecord) (s : State) : Result :=
  withSlot r s fun j => withJobIn inOpen s j fun b =>
    match parseJgo r.body with
    | none => refuse .badField s
    | some anchor =>
      if b.trackCount = 0 then refuse .badTrack s
      else
        let b' := match anchor with
          | some a => b.enterRunning a
          | none => { b with state := .anchorWait, untimed := [] }
        ⟨s.setJob j b', .ok, beBytes 1 b'.state.code⟩

/-- One untimed record converted (R28). -/
def convertOne (x : Job × AnchCounts) (u : Untimed) : Job × AnchCounts :=
  match u with
  | .cue c => convertCue c x.1 x.2
  | .clip c => convertClip c x.1 x.2

/-- The untimed list converted from head to tail, then the search of every DESC track (R28). -/
def Job.convert (b : Job) : Job × AnchCounts :=
  let r := b.untimed.foldl convertOne ({ b with untimed := [] }, ⟨0, 0, 0, 0, 0, 0⟩)
  (r.1.searchAll, r.2)

/-- ANCH (R27). -/
def doAnch (r : LinkRecord) (s : State) : Result :=
  withSlot r s fun j => withJobIn (· == .anchorWait) s j fun b =>
    match parseWord r.body with
    | none => refuse .badField s
    | some a =>
      let x := (b.enterRunning a).convert
      ⟨s.setJob j x.1, .ok, x.2.bytes⟩

/-! ### The data requests at a RUNNING job (R15, R49, R58, R112, R137, R143) -/

/-- The Segmenter's test after a request handled by job b, made where it has moved the settled point of a DESC track
(R67; assumption 33). -/
def thenPump (j : Fin 8) (b : Job) (x : Result) : Result :=
  if (x.s.job? j).any b.settledMoves then { x with s := x.s.pumpSegments j pumpFuel } else x

/-- LVL at a RUNNING job: the windows, then the search when one was processed (R112 to R116). -/
def runLvl (body : List Byte) (j : Fin 8) (b : Job) (s : State) : Result :=
  match parseLvl body with
  | none => refuse .badField s
  | some f =>
    let n := b.splitLvl f.first f.windows.length
    let b1 := b.processLvl f
    let b2 := if n.filled + n.lost + n.taken = 0 then b1 else b1.searchAll
    ⟨s.setJob j b2, if 0 < n.beyond then .clamped else .ok, n.bytes b2.cls.horizon⟩

/-- W raised: the watermark, then the tails it makes final (R13, R155). -/
def Job.raiseW (w : Nat) (b : Job) : Job := { b with w := some w }.testTails

/-- ADV at a RUNNING job (R15). -/
def runAdv (body : List Byte) (j : Fin 8) (b : Job) (s : State) : Result :=
  match parseWord body with
  | none => refuse .badField s
  | some target =>
    if target < b.w.getD 0 then refuse .behind s
    else
      ⟨(s.setJob j (b.raiseW (min target b.tb.span))).pump j, if b.tb.span < target then .clamped else .ok, []⟩

/-- A data record handled by a RUNNING job, taken directly or from the latch (R32). -/
def runData (k : Kind) (body : List Byte) (j : Fin 8) (b : Job) (s : State) : Result :=
  match k with
  | .cue => runCue body j b s
  | .crev => runCrev body j b s
  | .clip => thenPump j b (runClip body j b s)
  | .krev => thenPump j b (runKrev body j b s)
  | .lvl => thenPump j b (runLvl body j b s)
  | .adv => runAdv body j b s
  | _ => refuse .badField s

/-- The latch takes a record without examination while it holds fewer than 16 (R31). -/
def latchRecord (r : LinkRecord) (j : Fin 8) (b : Job) (s : State) : Result :=
  if b.latch.length < Config.latchSize then ⟨s.setJob j { b with latch := b.latch ++ [r] }, .latched, []⟩
  else refuse .busy s

/-- A data request by the slot's state (R21): `wait` is what ANCHOR_WAIT does with it, `opened` the refusal in OPEN. -/
def dataRequest (k : Kind) (opened : Status) (wait : List Byte → Fin 8 → Job → State → Result) (r : LinkRecord)
    (s : State) : Result :=
  withSlot r s fun j =>
    match s.slot j with
    | .job b =>
      match b.state with
      | .running => runData k r.body j b s
      | .anchorWait => wait r.body j b s
      | .holding | .held => latchRecord r j b s
      | .opened => refuse opened s
      | .parking | .finishing | .done => refuse .badState s
    | _ => refuse .badState s

/-- What ANCHOR_WAIT does with LVL and ADV (R26). -/
def noAnchor (_body : List Byte) (_j : Fin 8) (_b : Job) (s : State) : Result := refuse .noAnchor s

/-- CUE (R49). -/
def doCue (r : LinkRecord) (s : State) : Result := dataRequest .cue .badState waitCue r s

/-- CREV (R58). -/
def doCrev (r : LinkRecord) (s : State) : Result := dataRequest .crev .badState waitCrev r s

/-- CLIP (R137). -/
def doClip (r : LinkRecord) (s : State) : Result := dataRequest .clip .badState waitClip r s

/-- KREV (R143). -/
def doKrev (r : LinkRecord) (s : State) : Result := dataRequest .krev .badState waitKrev r s

/-- LVL (R112). -/
def doLvl (r : LinkRecord) (s : State) : Result := dataRequest .lvl .noAnchor noAnchor r s

/-- The watermark of the slot a request addresses, absent where there is none (R15). -/
def State.watermarkOf (r : LinkRecord) (s : State) : Option Nat :=
  match slotOf r.job with
  | some j => match s.job? j with | some b => b.w | none => none
  | none => none

/-- ADV (R15): its reply carries W with every status. -/
def doAdv (r : LinkRecord) (s : State) : Result :=
  let x := dataRequest .adv .noAnchor noAnchor r s
  { x with fields := optBytes 4 (x.s.watermarkOf r) }

/-! ### Holding and resuming (R29 to R33) -/

/-- HOLD (R29). -/
def doHold (r : LinkRecord) (s : State) : Result :=
  withSlot r s fun j => withJobIn (· == .running) s j fun b =>
    match parseEmpty r.body with
    | none => refuse .badField s
    | some () =>
      let b' := { b with state := .holding }.holdTest
      ⟨s.setJob j b', .ok, beBytes 1 b'.state.code⟩

/-- What the latch's processing has done so far: the state, the records processed, the records refused. -/
structure LatchRun where
  s : State
  processed : Nat
  refused : Nat

/-- One latched record processed as by a RUNNING job; a refusal counts LATCH_REFUSED (R32, R33). -/
def processLatched (j : Fin 8) (x : LatchRun) (rec : LinkRecord) : LatchRun :=
  match x.s.job? j, Kind.ofCode rec.kind with
  | some b, some k =>
    let y := runData k rec.body j b x.s
    if y.st.refuses then
      ⟨y.s.mapJob j fun b => b.report .latchRefused 1, x.processed + 1, x.refused + 1⟩
    else ⟨y.s, x.processed + 1, x.refused⟩
  | _, _ => x

/-- RSUM (R32): the latch from head to tail, then the tests of the emissions. -/
def doRsum (r : LinkRecord) (s : State) : Result :=
  withSlot r s fun j => withJobIn (· == .held) s j fun b =>
    match parseEmpty r.body with
    | none => refuse .badField s
    | some () =>
      let x := b.latch.foldl (processLatched j) ⟨s.setJob j { b with state := .running, latch := [] }, 0, 0⟩
      ⟨x.s.pump j, .ok, beBytes 1 x.processed ++ beBytes 1 x.refused⟩

/-! ### Finishing, releasing, aborting (R34 to R38) -/

/-- What FIN does to its job (R17, R34, R128, R151). -/
def Job.finish (e : Nat) (b : Job) : Job :=
  ({ b with state := .finishing, w := some e, e := some e }.closeAtFin).resolveAtFin

/-- FIN (R34). -/
def doFin (r : LinkRecord) (s : State) : Result :=
  withSlot r s fun j => withJobIn (· == .running) s j fun b =>
    match parseWord r.body with
    | none => refuse .badField s
    | some e =>
      if e < b.w.getD 0 then refuse .behind s
      else if b.tb.span < e then refuse .beyondSpan s
      else ⟨((s.setJob j (b.finish e)).pump j).doneTest j, .ok, []⟩

/-- RLS (R36). -/
def doRls (r : LinkRecord) (s : State) : Result :=
  withSlot r s fun j => withJobIn (· == .done) s j fun _ =>
    match parseEmpty r.body with
    | none => refuse .badField s
    | some () => ⟨s.freeSlot j, .ok, []⟩

/-- A job whose emissions, park and latch are ended (R37, steps 1 and 3). A NOTE already pending stays, and the rotation
may still place it, until the job is discarded (R37, step 4; assumption 43, DESIGN CHOICE: R192 says at ABRT). -/
def Job.stopped (b : Job) : Job :=
  { b with seg := { b.seg with flight := none, wait := false }, lane := { b.lane with flight := none, wait := false },
           park := none, latch := [] }

/-- The PARK reply of an aborted park is finished as ABORTED (R38, R169). -/
def State.abortPark (j : Fin 8) (b : Job) (s : State) : State :=
  match b.park with
  | some p => s.finishPark j .aborted (p.bytes p.placed)
  | none => s

/-- ABRT of a job (R37, R38): the reset frames are placed, or wait, or there are none. The PARK reply of a PARKING job
is finished as ABORTED at once, before its reset frames are placed (assumption 42, DESIGN CHOICE). -/
def abortJob (r : LinkRecord) (j : Fin 8) (b : Job) (s : State) : State :=
  let s1 := s.abortPark j b
  let w : AbortWait := { slot := j, request := r, was := b.state, discarded := b.latch.length }
  match b.resetFlight j with
  | none => s1.finishAbort w
  | some fl =>
    let b1 := b.stopped
    State.pumpLane j 1 { s1.setJob j { b1 with lane := { b1.lane with flight := some fl } } with abort := some w }

/-- ABRT (R37). -/
def takeAbrt (r : LinkRecord) (s : State) : State :=
  match slotOf r.job with
  | none => answer r (refuse .badField s)
  | some j =>
    match s.slot j with
    | .free => answer r (refuse .badState s)
    | .restoring _ =>
      match parseEmpty r.body with
      | none => answer r (refuse .badField s)
      | some () => answer r ⟨s.freeSlot j, .ok, beBytes 1 7 ++ beBytes 1 0⟩
    | .job b =>
      match parseEmpty r.body with
      | none => answer r (refuse .badField s)
      | some () => abortJob r j b s

/-! ### Queries (R39, R40, R130) -/

/-- The job is RUNNING or later: it has progress to report (R39). -/
def JobState.started : JobState → Bool
  | .opened | .anchorWait => false
  | _ => true

/-- A value reported from RUNNING onward. -/
def Job.since (b : Job) (n : Nat) : Option Nat := if b.state.started then some n else none

/-- JQRY's fields: R197's row, field by field in its order (R39), and then the span N as set, which R3 says the reply
carries, absent in a slot without a job. The row gives N no place: that it stands last, in four bytes, is the model's
(assumption 40, DESIGN CHOICE). -/
def Slot.jqryBytes : Slot → List Byte
  | .free => beBytes 1 0 ++ absentBytes 33
  | .restoring a =>
    beBytes 1 7 ++ absentBytes 21 ++ beBytes 2 a.cues ++ beBytes 2 a.blocks ++ beBytes 2 a.clips ++ absentBytes 6
  | .job b =>
    beBytes 1 b.state.code ++ optBytes 4 b.w ++ optBytes 4 b.e ++ optBytes 4 (b.since b.seg.next) ++
      optBytes 4 (b.since b.lane.next) ++ optBytes 4 (b.since b.cls.horizon) ++ optBytes 1 (b.since b.gd.state.code) ++
      beBytes 2 b.cueCount ++ beBytes 2 b.blockCount ++ beBytes 2 b.clipCount ++ optBytes 1 (b.since b.gaps.length) ++
      beBytes 1 b.latch.length ++ beBytes 4 b.tb.span

/-- JQRY (R39). -/
def doJqry (r : LinkRecord) (s : State) : Result :=
  withSlot r s fun j =>
    match parseEmpty r.body with
    | none => refuse .badField s
    | some () => ⟨s, .ok, (s.slot j).jqryBytes⟩

/-- A GQRY reply's fields without progress: the state alone (R130, R197). -/
def gqryAbsent (code : Nat) : List Byte := beBytes 1 code ++ absentBytes 22 ++ beBytes 1 0

/-- GQRY's fields (R130, R197): run items of states not in force read 0 and all ones. The gap-recorded byte, which R130
carries in GAP and SPEECH_WAIT alone, is taken as a run item: elsewhere it is sent as 0 (assumption 46, DESIGN CHOICE:
R197 does not say whether it is one, or an unreported field of FFh). -/
def Job.gqryBytes (pos : Nat) (b : Job) : List Byte :=
  let d := b.gd
  let out := (b.gaps.drop pos).take 32
  beBytes 1 b.state.code ++ [flagByte b.cls.levelsSeen] ++ beBytes 4 b.cls.horizon ++ beBytes 1 d.state.code ++
    (if d.state = .gapWait then beBytes 1 d.quietCount ++ optBytes 4 d.quietStart else beBytes 1 0 ++ absentBytes 4) ++
    (if d.state = .speechWait then beBytes 1 d.loudCount ++ optBytes 4 d.loudStart else beBytes 1 0 ++ absentBytes 4) ++
    [flagByte (d.recorded && (d.state == .gap || d.state == .speechWait))] ++ beBytes 4 d.nextGap ++
    beBytes 1 b.gaps.length ++ beBytes 1 out.length ++ out.flatMap gapBytes

def Slot.gqryBytes (pos : Nat) : Slot → List Byte
  | .free => gqryAbsent 0
  | .restoring _ => gqryAbsent 7
  | .job b => if b.state.started then b.gqryBytes pos else gqryAbsent b.state.code

/-- GQRY (R130). -/
def doGqry (r : LinkRecord) (s : State) : Result :=
  withSlot r s fun j =>
    match parseGqry r.body with
    | none => refuse .badField s
    | some pos => ⟨s, .ok, (s.slot j).gqryBytes pos⟩

/-- DQRY (R40): a device request. -/
def doDqry (r : LinkRecord) (s : State) : Result :=
  if r.job ≠ 0#8 then refuse .badField s
  else
    match parseEmpty r.body with
    | none => refuse .badField s
    | some () =>
      ⟨s, .ok, beBytes 2 s.freeCues ++ beBytes 2 s.freeBlocks ++ beBytes 2 s.freeClips ++
        slotNumbers.flatMap (fun j => beBytes 1 (s.slot j).code) ++ beBytes 2 s.parkSerial.toNat⟩

end Sys2Proof.Machine
end

