-- ==== Sys2Proof/Machine/Park.lean ====
section
/-! DEFINITION. The Context Engine's two requests: PARK, which writes a HELD job out, and UNPK, which reads a context
back part by part (R161 to R164, R167, R168, R170, R171, R173, R174). -/

namespace Sys2Proof.Machine

/-! ### PARK (R162, R163) -/

/-- A FULL context of this job would exceed the limits of R162. -/
def Job.tooLarge (b : Job) : Bool :=
  b.form == .full && (decide (Config.contextEntries < b.cueCount) || decide (Config.contextEntries < b.clipCount))

/-- The park a job enters with a serial (R163, steps 1, 2 and 5): its parts decided, the latch counted. -/
def Job.parkFlight (j : Fin 8) (serial : Word16) (b : Job) : ParkFlight :=
  let recs := contextRecords j serial b.form (contextBytes j serial b.form b)
  { serial := serial, form := b.form, parts := recs.length, placed := 0, todo := recs, discarded := b.latch.length,
    wait := false }

/-- The job in PARKING with its latch discarded (R163). -/
def Job.parked (j : Fin 8) (serial : Word16) (b : Job) : Job :=
  { b with state := .parking, latch := [], park := some (b.parkFlight j serial) }

/-- The unfinished PARK reply: the request's kind alone stands in its body (R163, step 4). -/
def parkReply (r : LinkRecord) (j : Fin 8) : OutEntry :=
  { record := { kind := kRPLY, job := r.job, flags := 0#8, tag := r.tag, body := [r.kind] }, cls := .reply,
    owner := some j, unfinished := true, lastPart := false }

/-- What taking PARK does, in the order of R163; then the parts are placed while there is room (R167). -/
def State.beginPark (r : LinkRecord) (j : Fin 8) (b : Job) (s : State) : State :=
  let s1 := ({ s with parkSerial := s.parkSerial + 1#16 }.setJob j (b.parked j s.parkSerial)).place (parkReply r j)
  s1.pumpParts j pumpFuel

/-- PARK (R162): refused at once, or taken and answered when the park ends. R19, R162 and R196 do not order a body that is
not empty against TOO_LARGE: the length is tested first (assumption 47, DESIGN CHOICE). -/
def takePark (r : LinkRecord) (s : State) : State :=
  match slotOf r.job with
  | none => answer r (refuse .badField s)
  | some j =>
    match s.slot j with
    | .job b =>
      if b.state == .held then
        match parseEmpty r.body with
        | none => answer r (refuse .badField s)
        | some () =>
          if b.tooLarge then answer r ⟨s, .tooLarge, beBytes 2 b.cueCount ++ beBytes 2 b.clipCount⟩
          else s.beginPark r j b
      else answer r (refuse .badState s)
    | _ => answer r (refuse .badState s)

/-! ### UNPK (R170, R171) -/

/-- The more-parts flag of a record, bit 0 of its flags (R176). -/
def LinkRecord.more (r : LinkRecord) : Bool := r.flags.getLsbD 0

/-- The assembly a consistent first part begins (R171). -/
def CtxHeader.begins (h : CtxHeader) (more : Bool) : Option Assembly :=
  match Form.ofCode h.form with
  | some f =>
    if h.part == 1 && within 1 64 h.parts && (f == .full || h.parts == 1) && more == decide (1 < h.parts) then
      some { serial := BitVec.ofNat 16 h.serial, form := f, parts := h.parts, next := 1, cues := 0, blocks := 0,
             clips := 0, bytes := [] }
    else none
  | none => none

/-- The part is the one the assembly expects (R171). -/
def Assembly.expects (a : Assembly) (h : CtxHeader) (more : Bool) : Bool :=
  h.serial == a.serial.toNat && h.form == a.form.code && h.parts == a.parts && h.part == a.next &&
    more == (h.part != a.parts)

/-- An assembly in slot j fails at a part (R173): the slot is FREE, its allocations return to the pools, and POOL_FULL
counts POOL_EXHAUSTED on the device (R171). `part` is the part number, none when the body has no header
(assumption 13). -/
def failAssembly (j : Fin 8) (a : Assembly) (part : Option Nat) (st : Status) (s : State) : Result :=
  let s1 := s.setSlot j .free
  ⟨if st = .poolFull then s1.alert .poolExhausted else s1, st, beBytes 2 a.serial.toNat ++ optBytes 1 part⟩

/-- The pools as an assembly in slot j finds them without its own entries (R171). -/
def State.limits (j : Fin 8) (s : State) : Limits :=
  let s1 := s.setSlot j .free
  { cues := s1.freeCues, blocks := s1.freeBlocks, clips := s1.freeClips }

/-- The assembly after a part that is not the last, with what it has allocated (R171). -/
def Assembly.grown (a : Assembly) (bytes : List Byte) (r : Option Reading) : Assembly :=
  match r with
  | some r => { a with next := a.next + 1, bytes := bytes, cues := r.cueCount, blocks := r.blocks, clips := r.clipCount }
  | none => { a with next := a.next + 1, bytes := bytes }

/-- The reply to a part that is not the last (R170, R197). -/
def Assembly.bytesTaken (a : Assembly) (part : Nat) : List Byte :=
  beBytes 2 a.serial.toNat ++ beBytes 1 part ++ beBytes 2 a.cues ++ beBytes 2 a.blocks ++ beBytes 2 a.clips

/-- A part that is not the last is taken: it is read as far as it goes (R171). -/
def takeInner (j : Fin 8) (a : Assembly) (chunk : List Byte) (s : State) : Result :=
  let bytes := a.bytes ++ chunk
  let goOn (r : Option Reading) : Result :=
    let a' := a.grown bytes r
    ⟨s.setSlot j (.restoring a'), .ok, a'.bytesTaken a.next⟩
  match readContext (s.limits j) a.serial a.form bytes with
  | none => goOn none
  | some (.stop r) => goOn (some r)
  | some (.go r) => goOn (some r)
  | some (.fail st) => failAssembly j a (some a.next) st s

/-- The reply to a valid last part (R170, R197). -/
def Job.restoredBytes (a : Assembly) (b : Job) : List Byte :=
  beBytes 2 a.serial.toNat ++ beBytes 1 a.form.code ++ beBytes 1 b.state.code ++ optBytes 4 b.w ++
    beBytes 2 b.cueCount ++ beBytes 2 b.blockCount ++ beBytes 2 b.clipCount ++ beBytes 1 b.gaps.length

/-- The last part is taken: its last two bytes are the context check, the whole context is tested, and the job it
describes stands HELD in the slot (R167, R171, R172, R174). Bytes that end inside an item or run on past the last one
are refused with BAD_CONTEXT, which R172 does not list (assumption 39, DESIGN CHOICE). -/
def takeLast (j : Fin 8) (a : Assembly) (chunk : List Byte) (s : State) : Result :=
  let bytes := a.bytes ++ chunk.take (chunk.length - 2)
  match readContext (s.limits j) a.serial a.form bytes with
  | some (.go r) =>
    if 2 ≤ chunk.length ∧ chunk.drop (chunk.length - 2) = checkBytes bytes ∧ r.rest = [] ∧ r.ok a.form then
      ⟨s.setJob j r.build, .ok, r.build.restoredBytes a⟩
    else failAssembly j a (some a.next) .badContext s
  | some (.fail st) => failAssembly j a (some a.next) st s
  | _ => failAssembly j a (some a.next) .badContext s

/-- The part an assembly expects is read: the header's 5 bytes are followed by context bytes (R167, R171). -/
def takePart (j : Fin 8) (a : Assembly) (body : List Byte) (s : State) : Result :=
  if a.next = a.parts then takeLast j a (body.drop 5) s else takeInner j a (body.drop 5) s

/-- UNPK at a FREE slot (R171). -/
def unpkFree (r : LinkRecord) (j : Fin 8) (s : State) : Result :=
  match parseUnpk r.body with
  | none => refuse .badContext s
  | some h =>
    match h.begins r.more with
    | none => refuse .badContext s
    | some a => takePart j a r.body s

/-- UNPK at a RESTORING slot (R171). -/
def unpkNext (r : LinkRecord) (j : Fin 8) (a : Assembly) (s : State) : Result :=
  match parseUnpk r.body with
  | none => failAssembly j a none .badContext s
  | some h => if a.expects h r.more then takePart j a r.body s else failAssembly j a (some h.part) .badContext s

/-- UNPK (R170). -/
def doUnpk (r : LinkRecord) (s : State) : Result :=
  withSlot r s fun j =>
    match s.slot j with
    | .free => unpkFree r j s
    | .restoring a => unpkNext r j a s
    | .job _ => refuse .badState s

end Sys2Proof.Machine
end

