-- ==== Sys2Proof/Machine/Link.lean ====
section
/-! DEFINITION. The Link Interface: the framer, the inbound queue, dispatch, device reset, breaks, power-on, the end of
a transmission and the placing of a waiting record (R175 to R187). -/

namespace Sys2Proof.Machine

/-! ### Device reset (R184) -/

/-- A record being sent is sent to its end, but its entry is no longer occupied (R184). -/
def Tx.detached (t : Tx) : Tx := { t with entry := { t.entry with owner := none, lastPart := false }, holds := false }

/-- The state DRST and a long break leave (R184, R186): that of power-on, but for the park serial counter, the record
on TXD, and the levels of the lines. -/
def State.deviceReset (s : State) : State :=
  { State.reset with
    pending := s.pending, phase := s.phase, rdyIn := s.rdyIn, rx := s.rx, parkSerial := s.parkSerial,
    tx := s.tx.map Tx.detached }

/-- A record DRST takes: job field 0 and no body (R184, R196). -/
def LinkRecord.resets (r : LinkRecord) : Bool := r.kind == Kind.drst.code && r.job == 0#8 && r.body.isEmpty

/-- DRST (R184). -/
def takeDrst (r : LinkRecord) (s : State) : State :=
  if r.job ≠ 0#8 then answer r (refuse .badField s)
  else
    match parseEmpty r.body with
    | none => answer r (refuse .badField s)
    | some () => answer r ⟨s.deviceReset, .ok, beBytes 2 s.parkSerial.toNat⟩

/-! ### Dispatch (R180) -/

/-- A record handed to its owner and answered (R180). -/
def handle (r : LinkRecord) (s : State) : State :=
  match Kind.ofCode r.kind with
  | none => answer r (refuse .unknownKind s)
  | some .jopn => answer r (doJopn r s)
  | some .tdef => answer r (doTdef r s)
  | some .lset => answer r (doLset r s)
  | some .dset => answer r (doDset r s)
  | some .duck => answer r (doDuck r s)
  | some .jgo => answer r (doJgo r s)
  | some .anch => answer r (doAnch r s)
  | some .hold => answer r (doHold r s)
  | some .rsum => answer r (doRsum r s)
  | some .fin => answer r (doFin r s)
  | some .abrt => takeAbrt r s
  | some .rls => answer r (doRls r s)
  | some .jqry => answer r (doJqry r s)
  | some .gqry => answer r (doGqry r s)
  | some .dqry => answer r (doDqry r s)
  | some .cue => answer r (doCue r s)
  | some .crev => answer r (doCrev r s)
  | some .clip => answer r (doClip r s)
  | some .krev => answer r (doKrev r s)
  | some .lvl => answer r (doLvl r s)
  | some .adv => answer r (doAdv r s)
  | some .park => takePark r s
  | some .unpk => answer r (doUnpk r s)
  | some .nclr => answer r (doNclr r s)
  | some .nset => answer r (doNset r s)
  | some .drst => takeDrst r s

/-- Replies standing in the outbound store, the one being sent included (R168, R183). -/
def State.replies (s : State) : Nat :=
  (s.store.filter fun e => e.cls == .reply).length +
    (match s.tx with | some t => if t.holds && t.entry.cls == .reply then 1 else 0 | none => 0)

/-- Some PARK reply stands unfinished (R168). -/
def State.parkUnfinished (s : State) : Bool := s.store.any fun e => e.unfinished

/-- Dispatch may take the head record (R180): the three conditions, of which a DRST needs only the second. -/
def State.mayTake (r : LinkRecord) (s : State) : Bool :=
  s.abort.isNone &&
    (r.resets || (decide (1 ≤ s.freeEntries) && (!s.parkUnfinished || decide (s.replies < Config.reserve))))

/-- Takes records from the head of the queue while it may (R180). The fuel is the queue's length. -/
def State.drain : Nat → State → State
  | 0, s => s
  | n + 1, s =>
    match s.inbound with
    | [] => s
    | r :: rest => if s.mayTake r then State.drain n (handle r { s with inbound := rest }).placeNotes else s

/-- What follows an event within its step (assumption 6): the NOTEs it started, then dispatch, then the transmitter. -/
def State.settle (s : State) : State :=
  let s1 := s.placeNotes
  (s1.drain s1.inbound.length).transmitBegin

/-- Room that a transmission has left is served before anything else happens (R182, assumption 5). -/
def State.flush (s : State) : State :=
  if s.phase = .run ∧ s.roomDue then { s.serveDue (2 * Config.storeSize) with roomDue := false }.settle else s

/-- An event reaches the part while it runs; before the end of initialisation it is ignored (R187). -/
def State.running (f : State → State) (s : State) : State := if s.phase = .run then f s.flush else s

/-- A complete record joins the inbound queue, or meets a full one (R179). -/
def State.enqueue (r : LinkRecord) (s : State) : State :=
  if s.inbound.length < Config.inboundSize then { s with inbound := s.inbound ++ [r] } else s.alert .overrun

/-- A request record as its kind and fields (R176). -/
def requestRecord (kind : Byte) (r : Req) : LinkRecord :=
  { kind := kind, job := r.job, flags := r.flags, tag := r.tag, body := r.body }

/-- A whole record reaches the part: it joins the queue, and dispatch takes it as soon as it may (R179, R180,
assumption 3). -/
def State.submit (kind : Byte) (r : Req) (s : State) : State :=
  s.running fun s => (s.enqueue (requestRecord kind r)).settle

/-! ### The framer (R177, R178) -/

/-- The record of a header and a body (R176). -/
def recordOf (head body : List Byte) : LinkRecord :=
  { kind := head.getD 0 0#8, job := head.getD 1 0#8, flags := head.getD 2 0#8, tag := BitVec.ofNat 16 (field head 3 2),
    body := body }

/-- A record begun is abandoned and its alert counted (R178). -/
def State.abandon (k : Alert) (s : State) : State := ({ s with framer := .hunt }.alert k).settle

/-- The seventh header byte has completed the body length (R177, R178). -/
def State.headerDone (head : List Byte) (s : State) : State :=
  let len := field head 5 2
  if Config.bodyMax < len then s.abandon .length
  else { s with framer := if len = 0 then .check head [] none else .body head len [] }

/-- The second check byte: the record is complete or abandoned (R177, R178, R179). -/
def State.checkDone (head body : List Byte) (a b : Byte) (s : State) : State :=
  if checkBytes (head ++ body) = [a, b] then ({ s with framer := .hunt }.enqueue (recordOf head body)).settle
  else s.abandon .check

/-- A byte received (R177). -/
def State.byteIn (b : Byte) (s : State) : State :=
  match s.framer with
  | .hunt => if b = 0xA7#8 then { s with framer := .header [] } else s
  | .header got =>
    if got.length < 6 then { s with framer := .header (got ++ [b]) } else s.headerDone (got ++ [b])
  | .body head len got =>
    if got.length + 1 < len then { s with framer := .body head len (got ++ [b]) }
    else { s with framer := .check head (got ++ [b]) none }
  | .check head got none => { s with framer := .check head got (some b) }
  | .check head got (some a) => s.checkDone head got a b

/-- A character ends on RXD; with a missing stop bit it waits to be judged (R175, R177, R178). -/
def State.character (b : Byte) (stopHigh : Bool) (s : State) : State :=
  s.running fun s =>
    if s.rx = .high then (if stopHigh then s.byteIn b else { s with rx := .stopLow }) else s

/-- The 1 ms without a start bit expires; it runs only while a record is begun (R178). -/
def State.timeout (s : State) : State :=
  s.running fun s => if s.framer ≠ .hunt ∧ s.rx = .high then s.abandon .timeout else s

/-- RXD seen high again: a missing stop bit of a record begun is a framing error; a break ends (R178, R185). -/
def State.returnsHigh (s : State) : State :=
  s.running fun s =>
    let s1 := { s with rx := .high }
    if s.rx = .stopLow ∧ s.framer ≠ .hunt then s1.abandon .framing else s1

/-- The low has lasted 2 character times (R185). -/
def State.breakShort (s : State) : State :=
  s.running fun s =>
    match s.rx with
    | .silence _ => s
    | _ => { s with framer := .hunt, rx := .silence false }

/-- The low has lasted 10 ms (R186): one reset for each long break, and no reply. -/
def State.breakLong (s : State) : State :=
  s.running fun s => if s.rx = .silence true then s else { s.deviceReset with rx := .silence true }

/-! ### The other lines (R183, R187) -/

/-- RDY_IN changes; an idle transmitter begins when it is asserted (R183). -/
def State.readyIn (level : Bool) (s : State) : State := { s.flush with rdyIn := level }.transmitBegin

/-- RESET_N falls: a record being sent is cut off (R187). -/
def State.resetFalls (s : State) : State := { s with tx := none, phase := .low }

/-- RESET_N rises: the part initialises itself to the power-on state (R187). -/
def State.resetRises (s : State) : State :=
  if s.phase = .low then { State.reset with pending := s.pending, rdyIn := s.rdyIn, phase := .init } else s

/-- Initialisation ends (R187). -/
def State.initialised (s : State) : State := if s.phase = .init then { s with phase := .run } else s

/-! ### The end of a transmission, and room (R182, R183) -/

/-- What a transmitted entry leads to: the end of a park, or the readiness of a finishing job (R35, R168, R183). -/
def State.afterSent (e : OutEntry) (s : State) : State :=
  match e.owner with
  | some j => if e.lastPart then s.endPark j else if e.cls = .output then s.doneTest j else s
  | none => s

/-- A record's last check byte has left TXD (R183). When more than 8 entries are then free and a claimant waits, one
waiting record is to be placed before anything else (R182, assumption 5). -/
def State.transmitted (s : State) : State :=
  s.running fun s =>
    match s.tx with
    | none => s
    | some t =>
      let s1 := { s with tx := none }
      let s2 := (if t.holds then s1.afterSent t.entry else s1).placeNotes
      if Config.reserve < s2.freeEntries ∧ s2.anyWaiting then { s2 with roomDue := true } else s2.settle

/-- The due room goes to the claimant and producer whose turn it is, when that is what the command names; a command
that names another record's placing does nothing (R182, assumptions 4 and 5). -/
def State.placeWhen (want : Fin 9 → Producer → State → Bool) (s : State) : State :=
  if s.phase = .run ∧ s.roomDue then
    match s.turn with
    | some (c, p) =>
      if want c p s then
        let s1 := s.serve c p
        if s1.roomDue then s1 else s1.settle
      else s
    | none => s
  else s

/-- The kind of the LANE record a claimant has in flight. -/
def State.laneKind (c : Fin 9) (s : State) : Option LaneKind :=
  match claimantSlot c with
  | some j => match s.job? j with | some b => b.lane.flight.map fun fl => fl.kind | none => none
  | none => none

/-- The scheduler's turn with a LANE record of a kind. -/
def isLane (k : LaneKind) (c : Fin 9) (p : Producer) (s : State) : Bool := p == .lane && s.laneKind c == some k

end Sys2Proof.Machine
end

