-- ==== Sys2Proof/Machine/Commands.lean ====
section
/-! DEFINITION. The meaning of each command: one definition for each constructor of Instr. A request's record joins the
inbound queue and is dispatched as soon as R180 allows; an event acts as its rule says. -/

namespace Sys2Proof.Machine

/-- What a command answers: the part never stops (State.Fault has no constructor). -/
abbrev Answer : Type := Host.Outcome State Fault Refusal

/-- Open Job (R22). -/
def execJopn (r : Req) (s : State) : Answer := .next (s.submit Kind.jopn.code r)

/-- Define Track (R42). -/
def execTdef (r : Req) (s : State) : Answer := .next (s.submit Kind.tdef.code r)

/-- Set Lane (R82). -/
def execLset (r : Req) (s : State) : Answer := .next (s.submit Kind.lset.code r)

/-- Set Detector (R109). -/
def execDset (r : Req) (s : State) : Answer := .next (s.submit Kind.dset.code r)

/-- Set Ducking (R133). -/
def execDuck (r : Req) (s : State) : Answer := .next (s.submit Kind.duck.code r)

/-- Start Job (R24). -/
def execJgo (r : Req) (s : State) : Answer := .next (s.submit Kind.jgo.code r)

/-- Set Anchor (R27). -/
def execAnch (r : Req) (s : State) : Answer := .next (s.submit Kind.anch.code r)

/-- Hold Job (R29). -/
def execHold (r : Req) (s : State) : Answer := .next (s.submit Kind.hold.code r)

/-- Resume Job (R32). -/
def execRsum (r : Req) (s : State) : Answer := .next (s.submit Kind.rsum.code r)

/-- Finish Job (R34). -/
def execFin (r : Req) (s : State) : Answer := .next (s.submit Kind.fin.code r)

/-- Abort Job (R37). -/
def execAbrt (r : Req) (s : State) : Answer := .next (s.submit Kind.abrt.code r)

/-- Release Slot (R36). -/
def execRls (r : Req) (s : State) : Answer := .next (s.submit Kind.rls.code r)

/-- Query Job (R39). -/
def execJqry (r : Req) (s : State) : Answer := .next (s.submit Kind.jqry.code r)

/-- Query Gaps (R130). -/
def execGqry (r : Req) (s : State) : Answer := .next (s.submit Kind.gqry.code r)

/-- Query Device (R40). -/
def execDqry (r : Req) (s : State) : Answer := .next (s.submit Kind.dqry.code r)

/-- Put Cue (R49). -/
def execCue (r : Req) (s : State) : Answer := .next (s.submit Kind.cue.code r)

/-- Revoke Cue (R58). -/
def execCrev (r : Req) (s : State) : Answer := .next (s.submit Kind.crev.code r)

/-- Put Clip (R137). -/
def execClip (r : Req) (s : State) : Answer := .next (s.submit Kind.clip.code r)

/-- Revoke Clip (R143). -/
def execKrev (r : Req) (s : State) : Answer := .next (s.submit Kind.krev.code r)

/-- Put Levels (R112). -/
def execLvl (r : Req) (s : State) : Answer := .next (s.submit Kind.lvl.code r)

/-- Advance (R15). -/
def execAdv (r : Req) (s : State) : Answer := .next (s.submit Kind.adv.code r)

/-- Park Job (R162). -/
def execPark (r : Req) (s : State) : Answer := .next (s.submit Kind.park.code r)

/-- Unpack Context (R170). -/
def execUnpk (r : Req) (s : State) : Answer := .next (s.submit Kind.unpk.code r)

/-- Clear Notices (R193). -/
def execNclr (r : Req) (s : State) : Answer := .next (s.submit Kind.nclr.code r)

/-- Set Notice Enables (R194). -/
def execNset (r : Req) (s : State) : Answer := .next (s.submit Kind.nset.code r)

/-- Reset Device (R184). -/
def execDrst (r : Req) (s : State) : Answer := .next (s.submit Kind.drst.code r)

/-- A record of an unassigned or output kind: answered UNKNOWN_KIND (R180). -/
def execUnknownKind (kind : Byte) (r : Req) (s : State) : Answer := .next (s.submit kind r)

/-- A character ends on RXD (R177). -/
def execCharacterReceived (b : Byte) (stopHigh : Bool) (s : State) : Answer := .next (s.character b stopHigh)

/-- The link timeout expires (R178). -/
def execLinkTimeout (s : State) : Answer := .next (s.timeout)

/-- A short break (R185). -/
def execShortBreak (s : State) : Answer := .next (s.breakShort)

/-- A long break (R186). -/
def execLongBreak (s : State) : Answer := .next (s.breakLong)

/-- RDY_IN changes (R183). -/
def execRdyInChange (level : Bool) (s : State) : Answer := .next (s.readyIn level)

/-- RESET_N falls (R187). -/
def execResetNLow (s : State) : Answer := .next (s.resetFalls)

/-- RESET_N rises (R187). -/
def execResetNRise (s : State) : Answer := .next (s.resetRises)

/-- Initialisation ends (R187). -/
def execInitialisationEnd (s : State) : Answer := .next (s.initialised)

/-- A record has been transmitted (R183). -/
def execRecordTransmitted (s : State) : Answer := .next (s.transmitted)

/-- Room for a waiting segment record (R69, R182). -/
def execSegmentRecordPlace (s : State) : Answer := .next (s.placeWhen fun _ p _ => p == .segmenter)

/-- Room for a waiting lane batch (R95, R182). -/
def execLaneBatchPlace (s : State) : Answer := .next (s.placeWhen (isLane .batch))

/-- Room for a waiting CLOSING record (R105, R182). -/
def execClosingFramesPlace (s : State) : Answer := .next (s.placeWhen (isLane .closing))

/-- Room for a waiting RESET record (R106, R182). -/
def execResetFramesPlace (s : State) : Answer := .next (s.placeWhen (isLane .reset))

/-- Room for a waiting CTXP part (R167, R182). -/
def execCtxpPartPlace (s : State) : Answer := .next (s.placeWhen fun _ p _ => p == .context)

/-- Room for a waiting NOTE (R192, R182). -/
def execNotePlace (s : State) : Answer := .next (s.placeWhen fun _ p _ => p == .notice)

/-- RXD returns high (R178, R185). -/
def execRxdReturnsHigh (s : State) : Answer := .next (s.returnsHigh)

end Sys2Proof.Machine
end

