-- ==== Sys2Proof/Machine/Dispatch.lean ====
section
/-! DEFINITION. Dispatch of a command to its meaning: one arm for each constructor of Instr. -/

namespace Sys2Proof.Machine

def exec (i : Instr) (s : State) : Host.Outcome State Fault Refusal :=
  match i with
  | .jopn r => Sys2Proof.Machine.execJopn r s
  | .tdef r => Sys2Proof.Machine.execTdef r s
  | .lset r => Sys2Proof.Machine.execLset r s
  | .dset r => Sys2Proof.Machine.execDset r s
  | .duck r => Sys2Proof.Machine.execDuck r s
  | .jgo r => Sys2Proof.Machine.execJgo r s
  | .anch r => Sys2Proof.Machine.execAnch r s
  | .hold r => Sys2Proof.Machine.execHold r s
  | .rsum r => Sys2Proof.Machine.execRsum r s
  | .fin r => Sys2Proof.Machine.execFin r s
  | .abrt r => Sys2Proof.Machine.execAbrt r s
  | .rls r => Sys2Proof.Machine.execRls r s
  | .jqry r => Sys2Proof.Machine.execJqry r s
  | .gqry r => Sys2Proof.Machine.execGqry r s
  | .dqry r => Sys2Proof.Machine.execDqry r s
  | .cue r => Sys2Proof.Machine.execCue r s
  | .crev r => Sys2Proof.Machine.execCrev r s
  | .clip r => Sys2Proof.Machine.execClip r s
  | .krev r => Sys2Proof.Machine.execKrev r s
  | .lvl r => Sys2Proof.Machine.execLvl r s
  | .adv r => Sys2Proof.Machine.execAdv r s
  | .park r => Sys2Proof.Machine.execPark r s
  | .unpk r => Sys2Proof.Machine.execUnpk r s
  | .nclr r => Sys2Proof.Machine.execNclr r s
  | .nset r => Sys2Proof.Machine.execNset r s
  | .drst r => Sys2Proof.Machine.execDrst r s
  | .unknownKind kind r => Sys2Proof.Machine.execUnknownKind kind r s
  | .characterReceived b stopHigh => Sys2Proof.Machine.execCharacterReceived b stopHigh s
  | .linkTimeout => Sys2Proof.Machine.execLinkTimeout s
  | .shortBreak => Sys2Proof.Machine.execShortBreak s
  | .longBreak => Sys2Proof.Machine.execLongBreak s
  | .rdyInChange level => Sys2Proof.Machine.execRdyInChange level s
  | .resetNLow => Sys2Proof.Machine.execResetNLow s
  | .resetNRise => Sys2Proof.Machine.execResetNRise s
  | .initialisationEnd => Sys2Proof.Machine.execInitialisationEnd s
  | .recordTransmitted => Sys2Proof.Machine.execRecordTransmitted s
  | .segmentRecordPlace => Sys2Proof.Machine.execSegmentRecordPlace s
  | .laneBatchPlace => Sys2Proof.Machine.execLaneBatchPlace s
  | .closingFramesPlace => Sys2Proof.Machine.execClosingFramesPlace s
  | .resetFramesPlace => Sys2Proof.Machine.execResetFramesPlace s
  | .ctxpPartPlace => Sys2Proof.Machine.execCtxpPartPlace s
  | .notePlace => Sys2Proof.Machine.execNotePlace s
  | .rxdReturnsHigh => Sys2Proof.Machine.execRxdReturnsHigh s

end Sys2Proof.Machine
end

