-- ==== Sys2Proof/Safety.lean ====
section
/-! DEFINITION. The terms claims use: when the part takes a record at once, what an event leaves to do, and what every
run keeps: capacities, pools, the notices' bounds, marks, emissions, and the orders of lists. -/

namespace Sys2Proof.Machine

/-! ### A part that has nothing left to do -/

/-- A claimant's NOTE is none, or waits for room: nothing remains to be placed at once (R191, R192). -/
def Notices.settled (x : Notices) : Bool := !x.pending || x.wait

/-- Every claimant's notices are settled. -/
def State.notesSettled (s : State) : Bool :=
  (slotNumbers.all fun j => match s.job? j with | some b => b.notices.settled | none => true) && s.device.settled

/-- The part runs, no room is due, no record waits in the inbound queue, no ABRT waits, and no NOTE is unplaced. -/
def State.quiet (s : State) : Bool :=
  s.phase == .run && !s.roomDue && s.inbound.isEmpty && s.abort.isNone && s.notesSettled

/-- Dispatch takes the next record at once: quiet, with an entry free and the PARK condition met (R168, R180). -/
def State.ready (s : State) : Bool :=
  s.quiet && decide (1 ≤ s.freeEntries) && (!s.parkUnfinished || decide (s.replies < Config.reserve))

/-- What is left of a step once a request is answered: the NOTEs it started, and the transmitter (assumption 6). -/
def State.after (s : State) : State := s.placeNotes.transmitBegin

/-! ### Capacities (R179, R181) -/

/-- Output and notice records that occupy entries, the one being sent included (R181). -/
def State.outputs (s : State) : Nat :=
  (s.store.filter fun e => e.cls != .reply).length +
    (match s.tx with | some t => if t.holds && t.entry.cls != .reply then 1 else 0 | none => 0)

/-- The queue and the store are within their sizes, output and notice records leave the reserve free, and room that is
due is there (R179, R181, R182). -/
def State.withinCapacity (s : State) : Bool :=
  decide (s.inbound.length ≤ Config.inboundSize) && decide (s.used ≤ Config.storeSize) &&
    decide (s.outputs ≤ Config.storeSize - Config.reserve) && (!s.roomDue || decide (Config.reserve < s.freeEntries))

/-! ### Quotas and pools (R44, R134) -/

/-- A job holds no more cue and clip entries than its quotas (R44, R134). -/
def Slot.withinQuotas : Slot → Bool
  | .job b => decide (b.cueCount ≤ b.cueQuota) && decide (b.clipCount ≤ b.clipQuota)
  | _ => true

/-- Every job keeps its quotas, and the slots together, restoring ones included, take no more than the three pools hold
(R44, R134, R171). -/
def State.withinPools (s : State) : Bool :=
  (slotNumbers.all fun j => (s.slot j).withinQuotas) &&
    decide (total (slotNumbers.map fun j => (s.slot j).cueCount) ≤ Config.cuePool) &&
    decide (total (slotNumbers.map fun j => (s.slot j).blockCount) ≤ Config.blockPool) &&
    decide (total (slotNumbers.map fun j => (s.slot j).clipCount) ≤ Config.clipPool)

/-! ### Notices (R188, R189) -/

/-- A claimant holds n counts, each from 0 to 255, and enables of its own class alone (R188, R189). -/
def Notices.sound (n : Nat) (cls : KindSet) (x : Notices) : Bool :=
  x.counts.length == n && x.counts.all (fun c => decide (c ≤ 255)) && kindsWithin cls x.enables

/-- A slot's notices are sound: 17 EVENT kinds for a job (R188). -/
def Slot.noticesSound : Slot → Bool
  | .job b => b.notices.sound 17 eventSet
  | _ => true

/-- Every claimant's notices are sound, and the six alerts are enabled (R188, R189). -/
def State.noticesSound (s : State) : Bool :=
  (slotNumbers.all fun j => (s.slot j).noticesSound) && s.device.sound 6 alertSet && s.device.enables == alertSet

/-! ### Marks (R13, R34) -/

/-- W exists from RUNNING onward and lies from 0 to N; the end frame exists in FINISHING and DONE and is W (R13, R34). -/
def Job.marksOk (b : Job) : Bool :=
  (match b.w with | some w => b.state.started && decide (w ≤ b.tb.span) | none => !b.state.started) &&
    (match b.e with
      | some e => (b.state == .finishing || b.state == .done) && b.w == some e
      | none => b.state != .finishing && b.state != .done)

/-- Every job's marks are in order. -/
def State.marksOk (s : State) : Bool :=
  slotNumbers.all fun j => match s.slot j with | .job b => b.marksOk | _ => true

/-! ### Emissions (R64) -/

/-- The end frame of the segments before segment k: kS, or E when that is lower in a finishing job (R64). -/
def Job.through (b : Job) (k : Nat) : Nat := match b.e with | some e => min (k * b.segLen) e | none => k * b.segLen

/-- From RUNNING onward the emitted-through frame is that of the next segment index and is not above W, and an emission
in flight is that of the next segment, which does not end above W (R64). -/
def Job.emissionOk (b : Job) : Bool :=
  !b.state.started ||
    (decide (b.seg.emitted = b.through b.seg.next) && decide (b.seg.emitted ≤ b.w.getD 0) &&
      b.seg.flight.all fun fl =>
        decide (fl.index = b.seg.next) && decide (fl.startF = b.seg.next * b.segLen) &&
          decide (fl.endF = b.through (b.seg.next + 1)) && decide (fl.endF ≤ b.w.getD 0))

/-- Every job's emissions are in order. -/
def State.emissionsOk (s : State) : Bool :=
  slotNumbers.all fun j => match s.slot j with | .job b => b.emissionOk | _ => true

/-! ### Lists (R31, R48, R125, R134, R141) -/

/-- A gap is open: the detector is in GAP or SPEECH_WAIT with a recorded gap (R119). -/
def Detector.holdsGap (d : Detector) : Bool := d.recorded && (d.state == .gap || d.state == .speechWait)

/-- A Gap List of at most 64 records: only the last is open, and that only while the detector holds a recorded gap;
numbers rise and lie below the next (R125). -/
def Job.gapListOk (b : Job) : Bool :=
  decide (b.gaps.length ≤ Config.gapListSize) && decide (b.gaps.Pairwise fun x y => x.num < y.num ∧ x.endS ≠ none) &&
    b.gaps.all fun g => decide (g.num < b.gd.nextGap) && (g.endS.isSome || b.gd.holdsGap)

/-- A track's lists: cues in the order of their start frames (R48), pending clips in that of their desired starts
(R141), and at most 64 live clips (R134). -/
def Track.listsOk : Track → Bool
  | .text t => decide (t.cues.Pairwise fun x y => x.startF ≤ y.startF)
  | .desc t => decide (t.pending.Pairwise fun x y => x.d ≤ y.d) && decide (t.live.length ≤ Config.clipsPerTrack)

/-- A job's lists are within their sizes and in their orders. -/
def Job.listsOk (b : Job) : Bool :=
  decide (b.latch.length ≤ Config.latchSize) && b.gapListOk && trackNumbers.all fun i => (b.track i).all Track.listsOk

/-- Every job's lists are in order. -/
def State.listsOk (s : State) : Bool := slotNumbers.all fun j => match s.slot j with | .job b => b.listsOk | _ => true

/-- The gaps of a job whose next window is w rise: each closed gap ends at or before the next one's start (R125). With it
stands what makes a gap opened or closed next keep this: no gap starts or ends beyond the windows processed, and a run
begins after every closed gap (R120 to R124). -/
def Job.gapsRise (w : Nat) (b : Job) : Bool :=
  decide (b.gaps.Pairwise fun x y => gapsInOrder x y = true) &&
    (b.gaps.all fun g => decide (g.num < b.gd.nextGap) && decide (g.start < 960 * w) &&
      (match g.endS with
        | some e => decide (g.start < e) && decide (e ≤ 960 * w)
        | none => b.gd.holdsGap)) &&
    (match b.gd.state with
      | .gapWait => b.gd.quietStart.any fun n => decide (n < w) &&
          b.gaps.all fun g => g.endS.any fun e => decide (e ≤ 960 * n)
      | .speechWait => b.gd.loudStart.any fun n => decide (n < w) && b.gaps.all fun g => decide (g.start < 960 * n)
      | _ => true)

/-! ### Contexts (R165, R199) -/

/-- Every field of the job's block lies within its range and fits the bytes the layout gives it (R165, R171, R199). -/
def Job.blockFits (b : Job) : Bool :=
  let four := fun n : Nat => decide (n < 2 ^ 32)
  let run := fun n : Nat => decide (n < 2 ^ 32 - 1)
  b.blockRanges && four b.tb.span && b.tb.anchor.any four && decide (b.nextArrival < 2 ^ 48) && b.w.any four &&
    four b.seg.next && four b.seg.emitted && four b.lane.next && four b.cls.horizon &&
    decide (b.lane.services.length = 4) &&
    (b.lane.services.all fun v => (v.displayed.all fun d => four d.id && four d.endF) &&
      v.loading.all fun l => four l.id && l.step.all fun k => decide (k < 256)) &&
    b.gd.quietStart.all run && b.gd.loudStart.all run && decide (b.gd.runMixed < 2 ^ 16) && four b.gd.nextGap &&
    decide (b.det.thresholds.length = 8) && (b.det.thresholds.all fun x => decide (x < 256)) &&
    (trackNumbers.all fun i => (b.track i).all Track.ok) && decide (b.descTracks.length ≤ 4) &&
    (b.descTracks.all fun p =>
      (p.2.prev.all fun x => four x.endS && depthOk x.depth) && four p.2.base.pos && decide (p.2.base.gain ≤ 0) &&
        decide (-160 ≤ p.2.base.gain)) &&
    decide (b.allCues.length < 2 ^ 16) && decide (b.allClips.length < 2 ^ 16) && decide (b.gaps.length < 256)

/-- A cue entry's values fit the bytes the layout gives them (R199). -/
def Cue.fits (c : Cue) : Prop :=
  c.id < 2 ^ 32 ∧ c.startF < 2 ^ 32 ∧ c.endF < 2 ^ 32 ∧ c.text.length < 2 ^ 16 ∧ c.laneText ≠ some [] ∧
  textLen c.laneText < 2 ^ 8 ∧ c.arrival < 2 ^ 40

/-- A cue entry's fields lie in their ranges, in a context of a span of n frames (R46, R171; assumption 32). -/
def Cue.inRange (n : Nat) (c : Cue) : Prop :=
  1 ≤ c.text.length ∧ c.text.length ≤ 480 ∧ textLen c.laneText ≤ 122 ∧ c.startF < c.endF ∧ c.endF ≤ n

/-- A clip entry's values fit the bytes the layout gives them (R199); a depth of its own is not 0, which stands for
none. -/
def Clip.fits (c : Clip) : Prop :=
  c.id < 2 ^ 32 ∧ c.ref < 2 ^ 32 ∧ c.dur < 2 ^ 32 ∧ c.d < 2 ^ 32 ∧ c.l < 2 ^ 32 ∧ c.arrival < 2 ^ 40 ∧
  (∀ g, c.depthOv = some g → g < 0 ∧ -255 ≤ g) ∧ (∀ g, c.depth = some g → g ≤ 0 ∧ -255 ≤ g) ∧
  (∀ n, c.start = some n ∨ c.gap = some n ∨ c.release = some n → n < 2 ^ 32)

/-- A clip entry's fields lie in their ranges, in a context whose span ends at sample z (R132, R136, R139, R171;
assumption 32). -/
def Clip.inRange (z : Nat) (c : Clip) : Prop :=
  (∀ g, c.depthOv = some g ∨ c.depth = some g → g ≤ -8 ∧ -160 ≤ g) ∧ 480 ≤ c.dur ∧ c.dur ≤ 2880000 ∧ c.d ≤ c.l ∧
  c.l + c.dur ≤ z ∧ (∀ n, c.start = some n → n + c.dur ≤ z) ∧ (∀ n, c.release = some n → n ≤ z) ∧
  (c.state = .pending ∨ c.state = .dropped → c.start = none ∧ c.depth = none ∧ c.gap = none ∧ c.release = none) ∧
  (c.state = .placed → c.start ≠ none ∧ c.depth ≠ none ∧ c.gap ≠ none) ∧
  (c.state = .overlaid → c.start ≠ none ∧ c.depth ≠ none ∧ c.gap = none)

/-- A gap record's values fit the bytes the layout gives them (R199). -/
def Gap.fits (g : Gap) : Prop :=
  g.num < 2 ^ 32 ∧ g.start < 2 ^ 32 ∧ (∀ e, g.endS = some e → e < 2 ^ 32 - 1) ∧ g.mixed < 2 ^ 16 ∧ g.placements < 2 ^ 16

/-- A gap record's samples are those of windows, its end after its start, within a span that ends at sample z (R125,
R171; assumption 32). -/
def Gap.inRange (z : Nat) (g : Gap) : Prop :=
  g.start % 960 = 0 ∧ g.start ≤ z ∧ ∀ e, g.endS = some e → g.start < e ∧ e % 960 = 0 ∧ e ≤ z

/-- A breakpoint's values fit the bytes the layout gives them (R199). -/
def Breakpoint.fits (p : Breakpoint) : Prop := p.pos < 2 ^ 32 ∧ p.gain ≤ 0 ∧ -255 ≤ p.gain

/-- A breakpoint's gain and position lie in their ranges (R152, R171; assumption 32). -/
def Breakpoint.inRange (z : Nat) (p : Breakpoint) : Prop := -160 ≤ p.gain ∧ p.pos ≤ z

/-- The material of a FULL context in its order: each TEXT track's cues, the tracks in increasing number (R166; the order
of the tracks is assumption 25). -/
def Job.cueEntries (b : Job) : List (Fin 16 × Cue) :=
  trackNumbers.flatMap fun i => (b.text? i).elim [] fun t => t.cues.map fun c => (i, c)

/-- The clip entries in their order: every DESC track's pending clips, then every one's placed clips (R166; assumption
25). -/
def Job.clipEntries (b : Job) : List (Fin 16 × Clip) :=
  (trackNumbers.flatMap fun i => (b.desc? i).elim [] fun t => t.pending.map fun c => (i, c)) ++
    trackNumbers.flatMap fun i => (b.desc? i).elim [] fun t => t.placed.map fun c => (i, c)

/-- The breakpoint lists of the DESC tracks in increasing number (R166). -/
def Job.pointLists (b : Job) : List (List Breakpoint) :=
  trackNumbers.filterMap fun i => (b.desc? i).map fun t => t.points

/-! ### What R172 asks of a restored job -/

/-- A language of three letters from 61h to 7Ah (R42). -/
def languageOk (l : List Byte) : Prop := l.length = 3 ∧ ∀ x ∈ l, 0x61 ≤ x.toNat ∧ x.toNat ≤ 0x7A

/-- The settings are those JOPN, TDEF, LSET, DSET and DUCK would take, R42's conflicts included (R172, Settings). -/
def Job.settingsTaken (b : Job) : Prop :=
  (1 ≤ b.tb.den ∧ b.tb.den ≤ 1001 ∧ b.tb.num ≤ 240000 ∧ 10 * b.tb.den ≤ b.tb.num ∧ b.tb.num ≤ 120 * b.tb.den) ∧
  1 ≤ b.tb.span ∧ b.tb.span ≤ 86400 * b.tb.num / b.tb.den ∧ 8 ≤ b.segLen ∧ b.segLen ≤ 720 ∧
  16 ≤ b.cueQuota ∧ b.cueQuota ≤ 4096 ∧ 4 ≤ b.clipQuota ∧ b.clipQuota ≤ 1024 ∧
  (b.laneSet.symbols = 2 ∨ b.laneSet.symbols = 4) ∧ 8 ≤ b.laneSet.lookahead ∧ b.laneSet.lookahead ≤ 600 ∧
  0x20 ≤ b.laneSet.subst ∧ b.laneSet.subst ≤ 0x7E ∧
  (b.det.thresholds.length = 8 ∧ (∀ t ∈ b.det.thresholds, t ≤ 255) ∧
    (∀ m n, m < n → n < 8 → b.det.sampleMask.getLsbD m = true → b.det.sampleMask.getLsbD n = true →
      b.det.thresholds.getD m 0 < b.det.thresholds.getD n 0) ∧
    b.det.speech ≤ 7 ∧ b.det.sampleMask.getLsbD b.det.speech = true ∧ 1 ≤ b.det.gapDebounce ∧
    b.det.gapDebounce ≤ 250 ∧ 1 ≤ b.det.speechDebounce ∧ b.det.speechDebounce ≤ 250 ∧ 1 ≤ b.det.holeLimit ∧
    b.det.holeLimit ≤ 500) ∧
  (∀ i t, b.text? i = some t → languageOk t.language ∧ t.service ≤ 4 ∧ (t.segOut = true ∨ t.service ≠ 0)) ∧
  (∀ i t, b.desc? i = some t → languageOk t.language ∧ -160 ≤ t.duck.depth ∧ t.duck.depth ≤ -8 ∧
    -80 ≤ t.duck.extra ∧ t.duck.extra ≤ 0 ∧ t.duck.rampDown ≤ 48000 ∧ t.duck.rampUp ≤ 48000 ∧
    t.duck.mergeGap ≤ 96000 ∧ t.duck.lead ≤ 48000 ∧ t.duck.tail ≤ 48000 ∧ t.duck.spacing ≤ 96000) ∧
  (trackNumbers.filter fun i => (b.desc? i).isSome).length ≤ 4 ∧
  ∀ i k t u, i ≠ k → b.text? i = some t → b.text? k = some u → t.service = u.service → t.service = 0

/-- W, the emitted-through frame, the next lane frame and the horizon agree (R172, Progress). -/
def Job.progressAgrees (b : Job) : Prop :=
  let w := b.w.getD 0
  w ≤ b.tb.span ∧ b.seg.emitted = b.seg.next * b.segLen ∧ b.seg.emitted ≤ w ∧
  (b.laneSet.enabled = false → b.lane.next = 0) ∧
  (b.laneSet.enabled = true → b.lane.next = 0 ∨ b.lane.next + b.laneSet.lookahead ≤ w + 1) ∧
  b.cls.horizon % 960 = 0 ∧ b.cls.horizon ≤ b.tb.firstSample b.tb.span + 959

/-- Counts and run starts keep to R119, and the gap-recorded flag to the open gap (R172, Detector; assumption 38). -/
def Job.detectorAgrees (b : Job) : Prop :=
  b.gd.quietCount ≤ 250 ∧ b.gd.loudCount ≤ 250 ∧ b.gd.runMixed ≤ b.gd.quietCount ∧
  (b.gd.quietStart ≠ none ↔ b.gd.state = .gapWait) ∧ (b.gd.loudStart ≠ none ↔ b.gd.state = .speechWait) ∧
  ((∃ g, b.gaps.getLast? = some g ∧ g.endS = none) ↔
    b.gd.recorded = true ∧ (b.gd.state = .gap ∨ b.gd.state = .speechWait))

/-- The list keeps the order, numbering and open gap of R125, and no placements count is below the live PLACED clips that
name its gap (R172, Gap List). The order is that of the starts, with no sample in two gaps (assumption 57, DESIGN
CHOICE). -/
def Job.gapListAgrees (b : Job) : Prop :=
  b.gaps.length ≤ 64 ∧
  b.gaps.Pairwise (fun g h => (∃ e, g.endS = some e ∧ e ≤ h.start) ∧ g.start < h.start ∧ g.num < h.num) ∧
  ∀ g ∈ b.gaps, g.num < b.gd.nextGap ∧
    total (trackNumbers.map fun i => ((b.desc? i).elim [] fun t =>
      t.placed.filter fun c => c.state == .placed && c.gap == some g.num).length) ≤ g.placements

/-- The cue entries of a context, and the lists they make (R172, Cues). -/
def Job.cuesAgree (b : Job) (items : List (Fin 16 × Cue)) : Prop :=
  (∀ p ∈ items, b.text? p.1 ≠ none) ∧
  ∀ i t, b.text? i = some t →
    let onLane := b.laneSet.enabled = true ∧ t.service ≠ 0
    t.cues.Pairwise (fun c d => c.id ≠ d.id) ∧
    t.cues.Pairwise (fun c d => c.startF < d.startF ∨ c.startF = d.startF ∧ c.arrival < d.arrival) ∧
    ∀ c ∈ t.cues, c.startF < c.endF ∧ c.endF ≤ b.tb.span ∧ (onLane → c.lane ≠ .off) ∧
      (¬onLane → c.lane = .off ∧ c.laneText = none) ∧
      ¬((t.segOut = true → c.endF ≤ b.seg.emitted) ∧ (onLane → c.lane = .done ∨ c.lane = .skipped))

/-- Each service's displayed and loading captions are its SHOWN and LOADING cues, and the current text service is none or
in use (R172, Lane). That a displayed caption has its cue's end frame is the model's reading (assumption 58, DESIGN
CHOICE), and so is that a loading one may stand at its LOAD step (assumption 59, DESIGN CHOICE). -/
def Job.laneAgrees (b : Job) : Prop :=
  let inUse := fun (sv : Nat) (i : Fin 16) (t : TextTrack) =>
    b.laneSet.enabled = true ∧ b.text? i = some t ∧ t.service = sv
  (∀ sv, 1 ≤ sv → sv ≤ 4 →
    let r := b.lane.service sv
    ((∀ i t, ¬inUse sv i t) → r.displayed = none ∧ r.loading = none) ∧
    ∀ i t, inUse sv i t →
      (∀ d, r.displayed = some d → ∃ c ∈ t.cues, c.id = d.id ∧ c.endF = d.endF ∧ c.lane = .shown) ∧
      (∀ l, r.loading = some l → ∃ c ∈ t.cues, c.id = l.id ∧ c.lane = .loading ∧
        ∀ k, l.step = some k → k < (loadSteps (c.rows b.laneSet)).length) ∧
      ∀ c ∈ t.cues, (c.lane = .shown → ∃ d, r.displayed = some d ∧ d.id = c.id) ∧
        (c.lane = .loading → ∃ l, r.loading = some l ∧ l.id = c.id)) ∧
  (b.lane.current = 0 ∨ b.lane.current ≤ 4 ∧ ∃ i t, inUse b.lane.current i t)

/-- The clip entries of a context, and the lists they make (R172, Clips; R126, R141, R145, R158). -/
def Job.clipsAgree (b : Job) (items : List (Fin 16 × Clip)) : Prop :=
  let emitted := b.tb.firstSample b.seg.emitted
  let sounds := fun c : Clip => c.state == .placed || c.state == .overlaid
  (∀ p ∈ items, b.desc? p.1 ≠ none) ∧
  ∀ i t, b.desc? i = some t →
    (t.pending ++ t.placed).Pairwise (fun c d => c.id ≠ d.id) ∧ t.pending.length + t.placed.length ≤ 64 ∧
    t.pending.Pairwise (fun c d => c.d < d.d ∨ c.d = d.d ∧ c.arrival < d.arrival) ∧
    (t.placed.filter sounds).Pairwise (fun c d => c.start.getD 0 < d.start.getD 0) ∧
    ∀ c ∈ t.placed,
      (sounds c = true → c.d ≤ c.start.getD 0 ∧ c.start.getD 0 ≤ c.l ∧ ∀ r, c.release = some r → emitted ≤ r) ∧
      (c.state = .dropped → emitted ≤ c.d) ∧
      (c.state = .placed → (∃ g ∈ b.gaps, g.num = c.gap.getD 0) ∨
        (∀ g, b.gaps.head? = some g → c.gap.getD 0 < g.num) ∧ (b.gaps = [] → c.gap.getD 0 < b.gd.nextGap))

/-- A track's breakpoints, previous clip and tail state (R172, Envelope). -/
def DescTrack.envelopeAgrees (t : DescTrack) : Prop :=
  let last := (t.placed.filter fun c => c.state == .placed || c.state == .overlaid).getLast?
  t.points.length ≤ 256 ∧ t.points.Pairwise (fun p q => p.pos ≤ q.pos) ∧
  (∀ p ∈ t.points, p.gain ≤ 0 ∧ -160 ≤ p.gain) ∧
  (∀ c, last = some c → t.prev = some ⟨c.start.getD 0 + c.dur, c.depth.getD 0⟩) ∧
  (t.tailState = .tentative → ∃ c, last = some c ∧ c.release = none) ∧ (t.tailState = .none ↔ t.prev = none)

/-- A SHORT context names no displayed caption, recorded gap or tentative tail; a FULL one holds some of the material of
R164 (R172, Form). -/
def Job.formAgrees (f : Form) (b : Job) : Prop :=
  let displayed := ∃ v ∈ b.lane.services, v.displayed ≠ none
  (f = .short → ¬displayed ∧ b.gd.recorded = false ∧ ∀ i t, b.desc? i = some t → t.tailState ≠ .tentative) ∧
  (f = .full → b.cueCount ≠ 0 ∨ b.clipCount ≠ 0 ∨ b.gaps ≠ [] ∨ displayed)

/-- All R172 asks of the job that the entries of a context in a form have made. -/
def Job.restorable (f : Form) (b : Job) (cues : List (Fin 16 × Cue)) (clips : List (Fin 16 × Clip)) : Prop :=
  b.settingsTaken ∧ b.progressAgrees ∧ b.detectorAgrees ∧ b.gapListAgrees ∧ b.cuesAgree cues ∧ b.laneAgrees ∧
  b.clipsAgree clips ∧ (∀ i t, b.desc? i = some t → t.envelopeAgrees) ∧ b.formAgrees f

/-! ### Requests by kind -/

/-- The command that is a request of a kind (the table of 11.2). -/
def requestOf (k : Kind) (r : Req) : Instr :=
  match k with
  | .jopn => .jopn r | .tdef => .tdef r | .lset => .lset r | .dset => .dset r | .duck => .duck r | .jgo => .jgo r
  | .anch => .anch r | .hold => .hold r | .rsum => .rsum r | .fin => .fin r | .abrt => .abrt r | .rls => .rls r
  | .jqry => .jqry r | .gqry => .gqry r | .cue => .cue r | .crev => .crev r | .clip => .clip r | .krev => .krev r
  | .lvl => .lvl r | .adv => .adv r | .park => .park r | .unpk => .unpk r | .nclr => .nclr r | .nset => .nset r
  | .dqry => .dqry r | .drst => .drst r

/-- The six data requests (R31). -/
def isData (k : Kind) : Bool := [Kind.cue, .crev, .clip, .krev, .lvl, .adv].contains k

/-- The job fields a request may be sent with (R19). -/
def jobFieldOk (k : Kind) (job : Byte) : Bool :=
  match k with
  | .dqry | .drst => job == 0#8
  | .nclr | .nset => decide (job.toNat ≤ 8)
  | _ => decide (1 ≤ job.toNat) && decide (job.toNat ≤ 8)

/-- The codes of the slot states a request is taken or latched in (the table of R21, the codes of R197). -/
def takenStates (k : Kind) : List Nat :=
  match k with
  | .jopn => [0]
  | .tdef | .lset | .jgo => [1]
  | .duck => [1, 2]
  | .dset => [1, 2, 3, 4, 5]
  | .anch => [2]
  | .cue | .clip | .crev | .krev => [2, 3, 4, 5]
  | .lvl | .adv => [3, 4, 5]
  | .hold | .fin => [3]
  | .rsum | .park => [5]
  | .unpk => [0, 7]
  | .abrt => [1, 2, 3, 4, 5, 6, 7, 8, 9]
  | .rls => [9]
  | .jqry | .gqry => [0, 1, 2, 3, 4, 5, 6, 7, 8, 9]
  | .nclr | .nset => [1, 2, 3, 4, 5, 6, 8, 9]
  | .dqry | .drst => []

/-- The status a request is refused with in another state (the last column of R21). -/
def otherStatus (k : Kind) (code : Nat) : Status :=
  if (k == .lvl || k == .adv) && (code == 1 || code == 2) then .noAnchor else .badState

/-- The fields a refusal carries: W for an ADV, none for the rest (R15, R197). -/
def refusalFields (k : Kind) (w : Option Nat) : List Byte := if k = .adv then optBytes 4 w else []

/-- The body lengths of R196; UNPK's is judged by R171. -/
def lengthOk (k : Kind) (body : List Byte) : Bool :=
  match k with
  | .jopn | .dset => body.length == 17
  | .tdef | .lset => body.length == 7
  | .duck => body.length == 30
  | .jgo => body.length == 0 || body.length == 4
  | .anch | .adv | .fin | .nclr | .nset => body.length == 4
  | .crev | .krev => body.length == 5
  | .gqry => body.length == 1
  | .cue => body.length == 17 + field body 14 2 + field body 16 1
  | .clip => body.length == 22
  | .lvl => body.length == 5 + 3 * field body 4 1
  | .hold | .rsum | .abrt | .rls | .park | .jqry | .dqry | .drst => body.length == 0
  | .unpk => true

/-- A reply placed and the step ended: what answering a request in state s, after its effect, comes to. -/
def State.answered (k : Kind) (r : Req) (st : Status) (fields : List Byte) (s : State) : Answer :=
  .next (s.reply (requestRecord k.code r) st fields).after

/-- The part takes a record at once, and its job field addresses slot j, which holds job b (R19). -/
def State.asked (s : State) (r : Req) (j : Fin 8) (b : Job) : Prop :=
  s.ready = true ∧ slotOf r.job = some j ∧ s.slot j = .job b

/-- The events of the lines are seen: the part runs and no room is due. -/
def State.listening (s : State) : Prop := s.phase = .run ∧ s.roomDue = false

/-- The settled point of a DESC track of a RUNNING job: the least of Ws minus the ramp-down, the head's desired start
minus the ramp-down, and the previous clip's end while its tail is tentative, each counted as 0 when below 0 (R157). -/
def Job.runningPoint (b : Job) (t : DescTrack) : Nat :=
  let w := b.tb.firstSample (b.w.getD 0) - t.duck.rampDown
  let head := match t.pending with | k :: _ => min (k.d - t.duck.rampDown) w | [] => w
  match t.prev with
  | some p => if t.tailState = .tentative then min p.endS head else head
  | none => head

/-- Job c in the place of RUNNING job b, followed by the Segmenter's test where the settled point of some DESC track has
moved (R67). -/
def State.tested (s : State) (j : Fin 8) (b c : Job) : State :=
  if ∃ i, (b.desc? i).map b.runningPoint ≠ (c.desc? i).map c.runningPoint then (s.setJob j c).pumpSegments j pumpFuel
  else s.setJob j c

/-- Room is due to producer p of the job in slot j, job b (R182). -/
def State.dueTo (s : State) (j : Fin 8) (p : Producer) (b : Job) : Prop :=
  s.phase = .run ∧ s.roomDue = true ∧ s.turn = some (⟨j.val, by omega⟩, p) ∧ s.slot j = .job b

/-- An output record in its entry (R181). -/
def outputEntry (j : Fin 8) (rec : LinkRecord) (last : Bool) : OutEntry :=
  { record := rec, cls := .output, owner := some j, unfinished := false, lastPart := last }

/-! ### Runs -/

/-- The state after characters received with their stop bits high, in order (R175, R177). -/
def State.feed : List Byte → State → State
  | [], s => s
  | b :: bs, s =>
    match exec (.characterReceived b true) s with
    | .next t => t.feed bs
    | _ => s

/-- A step ends in a state: the part never stops. -/
def safeOutcome : Host.Outcome State Fault Refusal → Bool
  | .next _ => true
  | _ => false

end Sys2Proof.Machine
end

