-- ==== Sys2Proof/Certificates/Slice0/Obligations.lean ====
section
/-! DEFINITION. The statements for the provers: what the commands of the TDP-8 do, what every step keeps, and what
the layouts carry. -/

open Sys2Proof Sys2Proof.Machine

/-! ### Steps and invariants -/

/-- A step runs the command at the front of the queue with the queue's rest; with an empty queue and no room due it
changes nothing (assumptions 3 and 5: the queue and the idle step are the model's). -/
def Obligations.StepRunsFrontCommand : Prop :=
  (∀ (c : Instr) (rest : List Instr) (s : State),
    step { s with pending := c :: rest } = exec c { s with pending := rest }) ∧
  ∀ s : State, s.pending = [] → s.roomDue = false → step s = .next s

/-- No command stops the part: every step answers a next state. -/
def Obligations.EveryStepAnswersAState : Prop := ∀ s : State, safeOutcome (step s) = true

/-- A command changes everything but the queue of commands. -/
def Obligations.ExecKeepsQueue : Prop := ∀ (c : Instr) (s t : State), exec c s = .next t → t.pending = s.pending

/-- The inbound queue holds at most 32 records, the store at most 64, output and notice records at most 56 of them, and
room that is due is there: every step keeps this (R179, R181, R182). No job holds more cue or clip entries than its
quotas, and all slots together, restoring ones included, no more cues, text blocks and clips than the pools: every step
keeps this too (R44, R45, R134, R140, R171). -/
def Obligations.StepKeepsCapacity : Prop :=
  (∀ s t : State, s.withinCapacity = true → step s = .next t → t.withinCapacity = true) ∧
  ∀ s t : State, s.withinPools = true → step s = .next t → t.withinPools = true

/-- Counts lie from 0 to 255, a job has 17 of them and the device 6, enables name EVENT kinds alone, and the six alerts
stay enabled: every step keeps this (R188, R189). -/
def Obligations.StepKeepsNoticesSound : Prop :=
  ∀ s t : State, s.noticesSound = true → step s = .next t → t.noticesSound = true

/-- W exists from RUNNING onward, lies from 0 to N, and is the end frame from FIN onward; from RUNNING onward the
emitted-through frame is kS, or the lesser of kS and E in a finishing job, never above W, and an emission in flight is
that of the next segment: every step keeps this (R13, R17, R64). A job's latch holds at most 16 records and its Gap List
at most 64, with rising numbers below the next, none open but the last and that one recorded; every cue list stands in
the order of its start frames, every pending list in that of its desired starts, and a track holds at most 64 live
clips: every step keeps this too (R31, R48, R125, R134, R141). That the gaps' starts rise as well is in
GapOpensAndCloses: R172 takes a context with a made-up run start (assumption 38). -/
def Obligations.StepKeepsMarks : Prop :=
  (∀ s t : State, s.marksOk = true → step s = .next t → t.marksOk = true) ∧
  (∀ s t : State, s.marksOk = true → s.emissionsOk = true → step s = .next t → t.emissionsOk = true) ∧
  ∀ s t : State, s.listsOk = true → step s = .next t → t.listsOk = true

/-- The reset state is that of R187 at the end of initialisation (assumption 1; RDY_IN deasserted is assumption 2), and
meets the invariants of every step. -/
def Obligations.ResetIsPowerOnState : Prop :=
  (∀ j, State.reset.slot j = .free) ∧ State.reset.inbound = [] ∧ State.reset.store = [] ∧ State.reset.tx = none ∧
  State.reset.framer = .hunt ∧ State.reset.parkSerial = 0#16 ∧ State.reset.lastClaimant = 8 ∧
  State.reset.device.counts = [0, 0, 0, 0, 0, 0] ∧ State.reset.device.enables = alertSet ∧
  State.reset.freeCues = 4096 ∧ State.reset.freeBlocks = 8192 ∧ State.reset.freeClips = 1024 ∧
  State.reset.rdyOut = true ∧ State.reset.pending = [] ∧
  State.reset.withinCapacity = true ∧ State.reset.noticesSound = true ∧ State.reset.marksOk = true ∧
  State.reset.withinPools = true ∧ State.reset.emissionsOk = true ∧ State.reset.listsOk = true

/-! ### Programme time -/

/-- The frame of p is round half up of p · num / (den · 1000): the floor formula, within half a frame with an exact half
going to the later frame, non-decreasing in p, and without an exact half at 24000/1001 and 30000/1001 (R5). -/
def Obligations.FrameOfRoundsHalfUp : Prop :=
  (∀ tb : Timebase, 1 ≤ tb.den →
    (∀ p, tb.frameOf p = (2 * p * tb.num + tb.den * 1000) / (2 * tb.den * 1000)) ∧
    (∀ p, 2 * tb.frameOf p * (tb.den * 1000) ≤ 2 * p * tb.num + tb.den * 1000 ∧
      2 * p * tb.num < (2 * tb.frameOf p + 1) * (tb.den * 1000)) ∧
    (∀ p q, p ≤ q → tb.frameOf p ≤ tb.frameOf q) ∧
    ∀ p k, 2 * p * tb.num = (2 * k + 1) * (tb.den * 1000) →
      tb.frameOf p = k + 1 ∧ p * tb.num = (2 * k + 1) * (tb.den * 500)) ∧
  (∀ n a, (⟨25, 1, n, a⟩ : Timebase).frameOf 20 = 1 ∧ (⟨25, 1, n, a⟩ : Timebase).frameOf 60 = 2) ∧
  ∀ p k, 2 * p * 24000 ≠ (2 * k + 1) * (1001 * 1000) ∧ 2 * p * 30000 ≠ (2 * k + 1) * (1001 * 1000)

/-- At every valid rate the output time is round half up, strictly increasing, and its frame is the frame it came from
(R7). -/
def Obligations.OutputTimeReturnsItsFrame : Prop :=
  ∀ tb : Timebase, rateOk tb.num tb.den = true →
    (∀ f, 2 * tb.outMs f * tb.num ≤ 2 * f * (tb.den * 1000) + tb.num ∧
      2 * f * (tb.den * 1000) < (2 * tb.outMs f + 1) * tb.num) ∧
    (∀ f, tb.outMs f < tb.outMs (f + 1)) ∧
    ∀ f, tb.frameOf (tb.outMs f) = f

/-- The first sample of a frame is round half up of f · den · 48,000 / num by the floor formula. At every valid rate a
frame holds at least 400 samples, and the sample ranges of frames 0 to n - 1 tile the samples below first-sample(n).
Where den · 48,000 is a multiple of num all frames are alike: 2,002 samples at 24000/1001, 1,920 at 25/1, 960 at 50/1,
800 at 60/1. At every rate a frame's size is den · 48,000 / num rounded down or up, so sizes differ by one sample at
most, and they repeat every num frames over den · 48,000 samples; at 30000/1001 every 5 frames over 8,008 samples (R8).
-/
def Obligations.SampleRangesTile : Prop :=
  (∀ tb : Timebase, rateOk tb.num tb.den = true →
    (∀ f, tb.firstSample f = (2 * f * tb.den * 48000 + tb.num) / (2 * tb.num) ∧
      2 * tb.firstSample f * tb.num ≤ 2 * f * (tb.den * 48000) + tb.num ∧
      2 * f * (tb.den * 48000) < (2 * tb.firstSample f + 1) * tb.num) ∧
    tb.firstSample 0 = 0 ∧ (∀ f, tb.firstSample f + 400 ≤ tb.firstSample (f + 1)) ∧
    (∀ n x, x < tb.firstSample n →
      ∃ f, f < n ∧ tb.firstSample f ≤ x ∧ x < tb.firstSample (f + 1) ∧
        ∀ g, tb.firstSample g ≤ x → x < tb.firstSample (g + 1) → g = f) ∧
    (∀ f, tb.firstSample (f + 1) - tb.firstSample f = tb.den * 48000 / tb.num ∨
      tb.firstSample (f + 1) - tb.firstSample f = (tb.den * 48000 + tb.num - 1) / tb.num) ∧
    (∀ f, tb.firstSample (f + tb.num) = tb.firstSample f + tb.den * 48000) ∧
    ∀ k, tb.den * 48000 = k * tb.num → ∀ f, tb.firstSample f = k * f) ∧
  ∀ n a f, (⟨24000, 1001, n, a⟩ : Timebase).firstSample f = 2002 * f ∧
    (⟨25, 1, n, a⟩ : Timebase).firstSample f = 1920 * f ∧ (⟨50, 1, n, a⟩ : Timebase).firstSample f = 960 * f ∧
    (⟨60, 1, n, a⟩ : Timebase).firstSample f = 800 * f ∧
    (⟨30000, 1001, n, a⟩ : Timebase).firstSample (f + 5) = (⟨30000, 1001, n, a⟩ : Timebase).firstSample f + 8008

/-! ### Layouts -/

/-- Every request body read back is the fields it was sent from (R196): the settings of JOPN, TDEF, LSET, DSET and DUCK,
cues, clips, levels, revokes, the four-byte fields, JGO's anchor or none, GQRY's position, and the header of UNPK. -/
def Obligations.RequestBodiesReadBack : Prop :=
  (∀ f : JopnFields, f.valid = true → (∀ n, f.span = some n → n < 2 ^ 32) → parseJopn (encodeJopn f) = some f) ∧
  (∀ f : TdefFields, f.valid = true → parseTdef (encodeTdef f) = some f) ∧
  (∀ x : LaneSettings, x.valid = true → parseLset (encodeLset x) = some x) ∧
  (∀ old x : DetSettings, x.valid = true → parseDset old (encodeDset x) = some x) ∧
  (∀ f : DuckFields, f.valid = true → parseDuck (encodeDuck f) = some f) ∧
  (∀ f : CueFields, f.valid = true → f.laneText ≠ some [] → f.id < 2 ^ 32 → f.startMs < 2 ^ 32 → f.endMs < 2 ^ 32 →
    parseCue (encodeCue f) = some f) ∧
  (∀ f : ClipFields, f.valid = true → f.id < 2 ^ 32 → f.ref < 2 ^ 32 → f.startMs < 2 ^ 32 → f.latestMs < 2 ^ 32 →
    parseClip (encodeClip f) = some f) ∧
  (∀ f : LvlFields, 1 ≤ f.windows.length → f.windows.length ≤ 32 → f.first < 2 ^ 32 →
    (∀ v ∈ f.windows, v.v0 < 256 ∧ v.v1 < 256 ∧ v.v2 < 256) → parseLvl (encodeLvl f) = some f) ∧
  (∀ (i : Fin 16) (id : Nat), id < 2 ^ 32 → parseRevoke (encodeRevoke i id) = some (i, id)) ∧
  (∀ n, n < 2 ^ 32 → parseWord (beBytes 4 n) = some n ∧ parseJgo (beBytes 4 n) = some (some n)) ∧
  parseJgo [] = some none ∧ (∀ n, n ≤ 63 → parseGqry (beBytes 1 n) = some n) ∧
  ∀ (h : CtxHeader) (rest : List Byte), h.serial < 2 ^ 16 → h.form < 256 → h.part < 256 → h.parts < 256 →
    parseUnpk (beBytes 2 h.serial ++ beBytes 1 h.form ++ beBytes 1 h.part ++ beBytes 1 h.parts ++ rest) = some h

/-- A record's frame, received byte by byte in HUNT, is the record joining the inbound queue, whatever its kind, job
field, flags, tag and body (R176, R177, R179, R195). -/
def Obligations.FramerReadsFrame : Prop :=
  ∀ (s : State) (rec : LinkRecord), s.listening → s.rx = .high → s.framer = .hunt → rec.body.length ≤ 1024 →
    s.feed rec.wire = (s.enqueue rec).settle

/-- A SHORT context is the block; a FULL one is the block, then every cue entry, the pending and then the placed clip
entries, the gap records and a breakpoint list for each DESC track (R164, R166, R199; the order of the tracks is
assumption 25). The block, the entries, the gap records and the lists are read back as they were written, and so is the
whole context where its items lie in their ranges and within its quotas and the pools (R165, R171). The block gives
every setting and mark of the job, the lane's and the detector's items, each track with its ducking parameters and
envelope, and the numbers of entries that follow; the job it makes is HELD with an empty latch, nothing stored, no count
and nothing in flight. A block that is read has its settings, counts and positions in their ranges. A cue or clip entry
out of range fails with BAD_CONTEXT, one beyond its quota with QUOTA_FULL, one that the pools cannot give with
POOL_FULL, a gap record or breakpoint list out of range with BAD_CONTEXT; an item not yet whole waits for more bytes
(R171). That the ranges so tested are these, in this order, is the model's (assumption 32); so are the tests of the
block's serial and form (assumption 37) and of a SHORT context that names entries (assumption 56), and the places of the
fields inside an item (assumption 12). -/
def Obligations.ContextEntriesReadBack : Prop :=
  (∀ (i : Fin 16) (c : Cue) (rest : List Byte), c.id < 2 ^ 32 → c.startF < c.endF → c.endF < 2 ^ 32 →
    c.text.length < 2 ^ 16 → c.laneText ≠ some [] → textLen c.laneText < 256 → c.arrival < 2 ^ 40 →
    readCue (cueBytes i c ++ rest) = some (i, c)) ∧
  (∀ (i : Fin 16) (c : Clip) (rest : List Byte), c.id < 2 ^ 32 → c.ref < 2 ^ 32 → 480 ≤ c.dur → c.dur ≤ 2880000 →
    (∀ g, c.depthOv = some g → depthOk g = true) → c.d ≤ c.l → c.l < 2 ^ 32 → (∀ n, c.start = some n → n < 2 ^ 32) →
    (∀ g, c.depth = some g → depthOk g = true) → (∀ n, c.gap = some n → n < 2 ^ 32) →
    (∀ n, c.release = some n → n < 2 ^ 32) → c.arrival < 2 ^ 40 → c.fieldsSet = true →
    readClip (clipBytes i c ++ rest) = some (i, c)) ∧
  (∀ (g : Gap) (rest : List Byte), g.num < 2 ^ 32 → g.start < 2 ^ 32 → g.start % 960 = 0 →
    (∀ e, g.endS = some e → g.start < e ∧ e % 960 = 0 ∧ e < 2 ^ 32 - 1) → g.mixed < 2 ^ 16 → g.placements < 2 ^ 16 →
    readGap (gapBytes g ++ rest) = some g) ∧
  (∀ (lists : List (List Breakpoint)) (r : Reading) (rest : List Byte),
    r.rest = lists.flatMap (fun ps => beBytes 2 ps.length ++
      ps.flatMap fun p => beBytes 4 p.pos ++ beBytes 1 p.gain.natAbs) ++ rest →
    (∀ ps ∈ lists, ps.length ≤ 256 ∧
      ∀ p ∈ ps, p.pos < 2 ^ 32 ∧ p.pos ≤ r.job.spanEnd ∧ p.gain ≤ 0 ∧ -160 ≤ p.gain) →
    readLists lists.length r = .go { r with points := r.points ++ lists, rest := rest }) ∧
  (∀ (j : Fin 8) (serial : Word16) (f : Form) (b : Job), b.blockFits = true →
    let bytes := blockBytes j serial f b
    bytes.length = 416 ∧ bytes.head? = some (jobNumber j) ∧
    ∃ c : Job, readBlock bytes = some ⟨serial.toNat, f, c, b.allCues.length, b.allClips.length, b.gaps.length⟩ ∧
      c = { b with
        state := .held, e := none, untimed := [], latch := [], tracks := c.tracks, gaps := [],
        seg := { b.seg with flight := none, wait := false },
        lane := { b.lane with flight := none, wait := false, closed := false },
        notices := ⟨List.replicate 17 0, b.notices.enables, false, false, 0#16⟩, park := none,
        lastProducer := .notice } ∧
      (∀ i, c.text? i = (b.text? i).map fun t => { t with cues := [] }) ∧
      ∀ i, c.desc? i = (b.desc? i).map fun t => { t with pending := [], placed := [], points := [] }) ∧
  (∀ (j : Fin 8) (serial : Word16) (b : Job),
    contextBytes j serial .short b = blockBytes j serial .short b ∧
    contextBytes j serial .full b = blockBytes j serial .full b ++ b.cueEntries.flatMap (fun p => cueBytes p.1 p.2) ++
      b.clipEntries.flatMap (fun p => clipBytes p.1 p.2) ++ b.gaps.flatMap gapBytes ++
      b.pointLists.flatMap fun ps => beBytes 2 ps.length ++
        ps.flatMap fun p => beBytes 4 p.pos ++ beBytes 1 p.gain.natAbs) ∧
  (∀ (j : Fin 8) (serial : Word16) (f : Form) (b : Job) (x : Limits), b.blockFits = true →
    let blocks := total (b.cueEntries.map fun p => (p.2.text.length + 31) / 32 + (textLen p.2.laneText + 31) / 32)
    (∀ p ∈ b.cueEntries, p.2.fits ∧ p.2.inRange b.tb.span) → (∀ p ∈ b.clipEntries, p.2.fits ∧ p.2.inRange b.spanEnd) →
    (∀ g ∈ b.gaps, g.fits ∧ g.inRange b.spanEnd) →
    (∀ ps ∈ b.pointLists, ps.length ≤ 256 ∧ ∀ p ∈ ps, p.fits ∧ p.inRange b.spanEnd) →
    b.cueEntries.length ≤ b.cueQuota → b.cueEntries.length ≤ x.cues → blocks ≤ x.blocks →
    b.clipEntries.length ≤ b.clipQuota → b.clipEntries.length ≤ x.clips →
    (f = .short → b.cueEntries = [] ∧ b.clipEntries = [] ∧ b.gaps = []) →
    ∃ k : Block, readBlock (blockBytes j serial f b) = some k ∧
      readContext x serial f (contextBytes j serial f b) =
        some (.go ⟨k.job, b.cueEntries, b.clipEntries, b.gaps, if f = .full then b.pointLists else [], blocks, []⟩)) ∧
  (∀ (bytes : List Byte) (k : Block), readBlock bytes = some k →
    let b := k.job
    1 ≤ b.tb.den ∧ b.tb.den ≤ 1001 ∧ 10 ≤ b.tb.num ∧ b.tb.num ≤ 240000 ∧ 1 ≤ b.tb.span ∧ 8 ≤ b.segLen ∧
    b.segLen ≤ 720 ∧ 16 ≤ b.cueQuota ∧ b.cueQuota ≤ 4096 ∧ 4 ≤ b.clipQuota ∧ b.clipQuota ≤ 1024 ∧
    (b.laneSet.symbols = 2 ∨ b.laneSet.symbols = 4) ∧ 8 ≤ b.laneSet.lookahead ∧ b.laneSet.lookahead ≤ 600 ∧
    0x20 ≤ b.laneSet.subst ∧ b.laneSet.subst ≤ 0x7E ∧ b.det.speech ≤ 7 ∧ 1 ≤ b.det.gapDebounce ∧
    b.det.gapDebounce ≤ 250 ∧ 1 ≤ b.det.speechDebounce ∧ b.det.speechDebounce ≤ 250 ∧ 1 ≤ b.det.holeLimit ∧
    b.det.holeLimit ≤ 500 ∧ b.notices.enables &&& ~~~0x0001FFFF#32 = 0#32 ∧ b.lane.current ≤ 4 ∧ b.gd.quietCount ≤ 250 ∧
    b.gd.loudCount ≤ 250 ∧ b.cls.horizon % 960 = 0 ∧
    (∀ v ∈ b.lane.services, ∀ d, v.displayed = some d → d.endF ≤ b.tb.span) ∧
    (∀ i t, b.text? i = some t → languageOk t.language ∧ t.service ≤ 4 ∧ (t.segOut = true ∨ t.service ≠ 0)) ∧
    ∀ i t, b.desc? i = some t → languageOk t.language ∧ t.duck.valid = true ∧ t.base.pos ≤ b.spanEnd ∧
      -160 ≤ t.base.gain ∧ ∀ p, t.prev = some p → p.endS ≤ b.spanEnd ∧ -160 ≤ p.depth ∧ p.depth ≤ -8) ∧
  (∀ (x : Limits) (serial : Word16) (f : Form) (bytes : List Byte),
    (bytes.length < 416 → readContext x serial f bytes = none) ∧
    (416 ≤ bytes.length → readBlock bytes = none → readContext x serial f bytes = some (.fail .badContext)) ∧
    ∀ k, 416 ≤ bytes.length → readBlock bytes = some k →
      let r : Reading := ⟨k.job, [], [], [], [], 0, bytes.drop 416⟩
      (k.serial ≠ serial.toNat ∨ k.form ≠ f → readContext x serial f bytes = some (.fail .badContext)) ∧
      (k.serial = serial.toNat → k.form = f → f = .short → readContext x serial f bytes =
        some (if k.cues = 0 ∧ k.clips = 0 ∧ k.gaps = 0 then .go r else .fail .badContext)) ∧
      (k.serial = serial.toNat → k.form = f → f = .full → readContext x serial f bytes = some
        (match readCues x k.cues r with
          | .go r1 =>
            match readClips x k.clips r1 with
            | .go r2 =>
              match readGaps k.gaps r2 with
              | .go r3 => readLists (trackNumbers.filter fun i => (k.job.desc? i).isSome).length r3
              | e => e
            | e => e
          | e => e))) ∧
  (∀ (x : Limits) (r : Reading),
    readCues x 0 r = .go r ∧ readClips x 0 r = .go r ∧ readGaps 0 r = .go r ∧ readLists 0 r = .go r) ∧
  (∀ (x : Limits) (n : Nat) (r : Reading) (i : Fin 16) (c : Cue) (rest : List Byte), c.fits →
    let blocks := r.blocks + (c.text.length + 31) / 32 + (textLen c.laneText + 31) / 32
    (r.rest = cueBytes i c ++ rest →
      (¬c.inRange r.job.tb.span → readCues x (n + 1) r = .fail .badContext) ∧
      (c.inRange r.job.tb.span → r.job.cueQuota ≤ r.cues.length → readCues x (n + 1) r = .fail .quotaFull) ∧
      (c.inRange r.job.tb.span → r.cues.length < r.job.cueQuota →
        (x.cues ≤ r.cues.length ∨ x.blocks < blocks → readCues x (n + 1) r = .fail .poolFull) ∧
        (r.cues.length < x.cues → blocks ≤ x.blocks →
          readCues x (n + 1) r = readCues x n { r with cues := r.cues ++ [(i, c)], blocks := blocks, rest := rest }))) ∧
    (c.inRange r.job.tb.span → (∃ post, post ≠ [] ∧ r.rest ++ post = cueBytes i c) → readCues x (n + 1) r = .stop r)) ∧
  (∀ (x : Limits) (n : Nat) (r : Reading) (i : Fin 16) (c : Clip) (rest : List Byte), c.fits →
    (r.rest = clipBytes i c ++ rest →
      (¬c.inRange r.job.spanEnd → readClips x (n + 1) r = .fail .badContext) ∧
      (c.inRange r.job.spanEnd → r.job.clipQuota ≤ r.clips.length → readClips x (n + 1) r = .fail .quotaFull) ∧
      (c.inRange r.job.spanEnd → r.clips.length < r.job.clipQuota →
        (x.clips ≤ r.clips.length → readClips x (n + 1) r = .fail .poolFull) ∧
        (r.clips.length < x.clips →
          readClips x (n + 1) r = readClips x n { r with clips := r.clips ++ [(i, c)], rest := rest }))) ∧
    ((∃ post, post ≠ [] ∧ r.rest ++ post = clipBytes i c) → readClips x (n + 1) r = .stop r)) ∧
  (∀ (n : Nat) (r : Reading) (g : Gap) (rest : List Byte), g.fits →
    (r.rest = gapBytes g ++ rest →
      (¬g.inRange r.job.spanEnd → readGaps (n + 1) r = .fail .badContext) ∧
      (g.inRange r.job.spanEnd → readGaps (n + 1) r = readGaps n { r with gaps := r.gaps ++ [g], rest := rest })) ∧
    ((∃ post, post ≠ [] ∧ r.rest ++ post = gapBytes g) → readGaps (n + 1) r = .stop r)) ∧
  (∀ (n : Nat) (r : Reading) (ps : List Breakpoint) (rest : List Byte), ps.length < 2 ^ 16 → (∀ p ∈ ps, p.fits) →
    let item := beBytes 2 ps.length ++ ps.flatMap fun p => beBytes 4 p.pos ++ beBytes 1 p.gain.natAbs
    (r.rest = item ++ rest → 256 < ps.length ∨ (∃ p ∈ ps, ¬p.inRange r.job.spanEnd) →
      readLists (n + 1) r = .fail .badContext) ∧
    (r.rest = item ++ rest → ps.length ≤ 256 → (∀ p ∈ ps, p.inRange r.job.spanEnd) →
      readLists (n + 1) r = readLists n { r with points := r.points ++ [ps], rest := rest }) ∧
    (ps.length ≤ 256 → (∃ post, post ≠ [] ∧ r.rest ++ post = item) → readLists (n + 1) r = .stop r)) ∧
  ∀ (x : Limits) (n : Nat) (r : Reading),
    (let t := field r.rest 16 2
      let l := field r.rest 18 1
      1 ≤ t → t ≤ 480 → l ≤ 122 → 24 + t + l ≤ r.rest.length →
      15 < field r.rest 0 1 ∨ 1 < field r.rest 5 1 ∨ 5 < field r.rest 6 1 ∨ 7 < field r.rest 7 1 →
      readCues x (n + 1) r = .fail .badContext) ∧
    (44 ≤ r.rest.length → 15 < field r.rest 0 1 ∨ 3 < field r.rest 22 1 ∨ 15 < field r.rest 23 1 →
      readClips x (n + 1) r = .fail .badContext)

/-- A context is cut into the least number of parts; each fits a record, all but the last carry 1,019 context bytes, the
more-parts flag is clear on the last alone, and together they carry the context bytes and the check; part n opens with
the park serial, the form, n and the number of parts (R167, R199). Where the length leaves 1,018 bytes for the last but
one, no cut meets R199; that one carries 1,018 (assumption 18). The records of a segment are the SEGT parts of its TEXT
tracks, the SEGD parts of its DESC tracks, each in increasing number where segment output is on, and the SEGC (R68). The
SEGT parts hold whole the entries of the overlapping cues in list order, as many to a part as fit, one empty part when
there is none (R74, R75). The SEGD parts hold the carried clips by position, then the breakpoints, then the gain bytes
of the sample range, each clip and breakpoint whole, as many items to a part as fit, one empty part when there is none;
a part's header counts its items and names the window of its first gain byte (R76 to R78). The SEGC gives the ranges and
what was carried of each track (R79). A gain read from a made-up context's base point is the model's choice (assumption
52). -/
def Obligations.ContextPartsFit : Prop :=
  (∀ (j : Fin 8) (serial : Word16) (f : Form) (bytes : List Byte),
    let recs := contextRecords j serial f bytes
    let n := partCount bytes.length
    recs.length = n ∧ 1 ≤ n ∧ bytes.length ≤ 1019 * (n - 1) + 1017 ∧ (1 < n → 1019 * (n - 2) + 1017 < bytes.length) ∧
    (∀ rec ∈ recs, rec.kind = kCTXP ∧ rec.job = jobNumber j ∧ rec.tag = serial ∧ rec.body.length ≤ 1024) ∧
    (∀ rec ∈ recs.dropLast, rec.flags = 1#8 ∧ 1023 ≤ rec.body.length ∧
      (bytes.length % 1019 ≠ 1018 → rec.body.length = 1024)) ∧
    (∀ rec, recs.getLast? = some rec → rec.flags = 0#8) ∧
    (∀ (m : Nat) (rec : LinkRecord), recs[m]? = some rec →
      rec.body.take 5 = beBytes 2 serial.toNat ++ beBytes 1 f.code ++ beBytes 1 (m + 1) ++ beBytes 1 n) ∧
    recs.flatMap (fun rec => rec.body.drop 5) = bytes ++ checkBytes bytes) ∧
  ∀ (j : Fin 8) (b : Job),
    let k := b.seg.next
    let fa := k * b.segLen
    let fb := match b.e with | some x => min (fa + b.segLen) x | none => fa + b.segLen
    let a := b.tb.firstSample fa
    let e := b.tb.firstSample fb
    let last := b.e.any fun x => decide (x ≤ fa + b.segLen)
    let bit := fun (p : Bool) (n : Nat) => if p then n else 0
    let overlaps := fun t : TextTrack => t.cues.filter fun c => decide (c.startF < fb) && decide (fa < c.endF)
    let cueEntry := fun c : Cue =>
      beBytes 4 c.id ++ beBytes 4 (b.tb.outMs (max c.startF fa)) ++ beBytes 4 (b.tb.outMs (min c.endF fb)) ++
        [BitVec.ofNat 8 (bit (decide (c.startF < fa)) 1 + bit (decide (fb < c.endF)) 2 + bit c.clipped 4 +
          bit c.stretched 8 + bit c.clamped 16), if c.region = .bottom then 0#8 else 1#8] ++
        beBytes 2 c.text.length ++ c.text
    let position := fun c : Clip => if c.state = .dropped then c.d else c.start.getD 0
    let sounds := fun c : Clip => c.state == .placed || c.state == .overlaid
    let carried := fun t : DescTrack => t.placed.filter fun c =>
      (sounds c && decide (c.start.getD 0 < e) && decide (a < c.start.getD 0 + c.dur)) ||
        (c.state == .dropped && (decide (a ≤ c.d ∧ c.d < e) || (last && decide (b.tb.firstSample (b.e.getD 0) ≤ c.d))))
    let clipEntry := fun c : Clip =>
      beBytes 4 c.id ++ beBytes 4 c.ref ++
        [if c.state = .placed then 0#8 else if c.state = .overlaid then 1#8 else 2#8] ++ beBytes 4 (position c) ++
        beBytes 4 c.dur ++
        [BitVec.ofNat 8 (bit (sounds c && decide (position c < a)) 1 +
          bit (sounds c && decide (e < c.start.getD 0 + c.dur)) 2)]
    let pointEntry := fun p : Breakpoint => beBytes 4 p.pos ++ beBytes 1 p.gain.natAbs
    let points := fun t : DescTrack => t.points.filter fun p => decide (a ≤ p.pos) && decide (p.pos < e)
    let gains := fun t : DescTrack => (List.range ((e + 959) / 960 - (a + 959) / 960)).map fun n =>
      BitVec.ofNat 8 (t.gainAt (960 * ((a + 959) / 960 + n))).natAbs
    let header := fun (i : Fin 16) (n : Nat) => beBytes 1 i.val ++ beBytes 4 k ++ beBytes 2 (n + 1)
    let more := fun n m : Nat => if n + 1 < m then 1#8 else 0#8
    ∃ (segt : Fin 16 → TextTrack → List LinkRecord) (segd : Fin 16 → DescTrack → List LinkRecord),
      b.segmentRecords j =
        (trackNumbers.flatMap fun i =>
          match b.text? i with | some t => if t.segOut then segt i t else [] | none => []) ++
        (trackNumbers.flatMap fun i =>
          match b.desc? i with | some t => if t.segOut then segd i t else [] | none => []) ++
        [⟨0x84#8, jobNumber j, 0#8, BitVec.ofNat 16 k,
          beBytes 4 k ++ beBytes 4 fa ++ beBytes 4 fb ++ beBytes 4 (b.tb.outMs fa) ++ beBytes 4 (b.tb.outMs fb) ++
            beBytes 4 a ++ beBytes 4 e ++
            beBytes 1 (trackNumbers.filter fun i => (b.track i).any Track.segOut).length ++
            trackNumbers.flatMap fun i =>
              match b.track i with
              | some (.text t) =>
                if t.segOut then beBytes 1 i.val ++ [0#8] ++ t.language ++ beBytes 2 (segt i t).length ++
                  beBytes 2 (overlaps t).length else []
              | some (.desc t) =>
                if t.segOut then beBytes 1 i.val ++ [1#8] ++ t.language ++ beBytes 2 (segd i t).length ++
                  beBytes 2 (carried t).length ++ beBytes 2 (points t).length ++ beBytes 2 (gains t).length else []
              | none => []⟩] ∧
      (∀ i t, (∀ c ∈ t.cues, c.text.length ≤ 480) →
        ∃ parts : List (List Cue), parts ≠ [] ∧ parts.flatten = overlaps t ∧ (segt i t).length = parts.length ∧
          (1 < parts.length → ∀ p ∈ parts, p ≠ []) ∧
          ∀ (n : Nat) (p : List Cue), parts[n]? = some p →
            let body := header i n ++ beBytes 2 p.length ++ p.flatMap cueEntry
            (segt i t)[n]? = some ⟨0x82#8, jobNumber j, more n parts.length, BitVec.ofNat 16 k, body⟩ ∧
            body.length ≤ 1024 ∧
            ∀ q c, parts[n + 1]? = some q → q.head? = some c → 1024 < body.length + (cueEntry c).length) ∧
      ∀ i t, ∃ cs : List Clip, cs.Perm (carried t) ∧
        cs.Pairwise (fun x y => position x < position y ∨ position x = position y ∧ x.arrival ≤ y.arrival) ∧
        ∃ parts : List (List Clip × List Breakpoint × List Byte), parts ≠ [] ∧ (segd i t).length = parts.length ∧
          parts.flatMap (fun p => p.1) = cs ∧ parts.flatMap (fun p => p.2.1) = points t ∧
          parts.flatMap (fun p => p.2.2) = gains t ∧ (1 < parts.length → ∀ p ∈ parts, p ≠ ([], [], [])) ∧
          (segd i t).flatMap (fun rec => rec.body.drop 16) =
            cs.flatMap clipEntry ++ (points t).flatMap pointEntry ++ gains t ∧
          ∀ (n : Nat) (p : List Clip × List Breakpoint × List Byte), parts[n]? = some p →
            let before := ((parts.take n).flatMap fun q => q.2.2).length
            let window := if p.2.2 = [] then List.replicate 4 (0xFF#8 : Byte) else beBytes 4 ((a + 959) / 960 + before)
            let body := header i n ++ beBytes 1 p.1.length ++ beBytes 2 p.2.1.length ++ beBytes 2 p.2.2.length ++
              window ++ p.1.flatMap clipEntry ++ p.2.1.flatMap pointEntry ++ p.2.2
            (segd i t)[n]? =
              some ⟨0x83#8, jobNumber j, more n parts.length, BitVec.ofNat 16 k, body⟩ ∧ body.length ≤ 1024 ∧
            ∀ q, parts[n + 1]? = some q →
              1024 < body.length + (if q.1 ≠ [] then 18 else if q.2.1 ≠ [] then 5 else 1)

/-! ### Requests that are refused -/

/-- A request sent with a job field that addresses nothing it may address is refused with BAD_FIELD and changes nothing
(R19); ADV's reply carries an absent W (R15). -/
def Obligations.BadJobFieldRefused : Prop :=
  ∀ (k : Kind) (r : Req) (s : State), s.ready = true → jobFieldOk k r.job = false →
    exec (requestOf k r) s = s.answered k r .badField (refusalFields k none)

/-- A request to a slot in a state not listed for it is refused with BAD_STATE, LVL and ADV before the anchor with
NO_ANCHOR, and changes nothing (R21). -/
def Obligations.WrongStateRefused : Prop :=
  ∀ (k : Kind) (r : Req) (s : State) (j : Fin 8), s.ready = true → slotOf r.job = some j → jobFieldOk k r.job = true →
    (takenStates k).contains (s.slot j).code = false →
    exec (requestOf k r) s = s.answered k r (otherStatus k (s.slot j).code)
      (refusalFields k (s.watermarkOf (requestRecord k.code r)))

/-- A request in a state that takes it (a data request where it is not latched), or a device request, whose body has not
the length of its layout is refused with BAD_FIELD and changes nothing (R196). That the length comes first where a JGO
finds no track is the model's choice (assumption 41), and where a PARK would be TOO_LARGE too (assumption 47). -/
def Obligations.WrongLengthRefused : Prop :=
  ∀ (k : Kind) (r : Req) (s : State), s.ready = true → lengthOk k r.body = false →
    ((∃ j, slotOf r.job = some j ∧ (takenStates k).contains (s.slot j).code = true ∧
        (isData k = true → (s.slot j).code = 2 ∨ (s.slot j).code = 3)) ∨
      (r.job = 0#8 ∧ jobFieldOk k r.job = true)) →
    exec (requestOf k r) s = s.answered k r .badField (refusalFields k (s.watermarkOf (requestRecord k.code r)))

/-- What is left of a step once a request is answered changes no slot but for the placing of its NOTE, no count and no
enable, keeps every other field, and loses no record of the store. What joins the store is a NOTE (how one is placed
stands in WaitingNoteIsPlaced), and an idle transmitter takes up a record of the store or such a NOTE (R183, R192). That
this comes after the reply is the model's order (assumption 6), and so is that a NOTE placed at once leaves the claimant
and the producer served last as they were (assumption 9). -/
def Obligations.AfterKeepsState : Prop :=
  ∀ s : State,
    let isNote := fun e : OutEntry => e.record.kind = 0x81#8 ∧ (e.cls = .note ∨ e.cls = .alert)
    s.after = s.placeNotes.transmitBegin ∧ s.after.pending = s.pending ∧ s.after.phase = s.phase ∧
    s.after.rdyIn = s.rdyIn ∧ s.after.rx = s.rx ∧
    s.after.framer = s.framer ∧ s.after.inbound = s.inbound ∧ s.after.lastClaimant = s.lastClaimant ∧
    s.after.roomDue = s.roomDue ∧ s.after.abort = s.abort ∧ s.after.parkSerial = s.parkSerial ∧
    s.after.device.counts = s.device.counts ∧ s.after.device.enables = s.device.enables ∧
    (∀ j, (s.slot j = .free → s.after.slot j = .free) ∧ (∀ a, s.slot j = .restoring a → s.after.slot j = .restoring a) ∧
      ∀ b, s.slot j = .job b → ∃ n : Notices, n.counts = b.notices.counts ∧ n.enables = b.notices.enables ∧
        s.after.slot j = .job { b with notices := n }) ∧
    (∀ e ∈ s.store, e ∈ s.after.store ∨ ∃ t, s.after.tx = some t ∧ t.entry = e) ∧
    (∀ e ∈ s.after.store, e ∈ s.store ∨ isNote e) ∧
    ∀ t, (s.tx = some t → s.after.tx = some t) ∧
      (s.tx = none → s.after.tx = some t →
        (t.entry ∈ s.store ∨ isNote t.entry) ∧ t.holds = true ∧ t.wire = t.entry.record.wire)

/-! ### Opening, describing and starting a job -/

/-- JOPN in a FREE slot makes the job record of R18, R22 and R23: the span as sent, clamped to the 24-hour limit or by
default that limit, absent quotas 512 and 128, no track, the default settings and enables, no W, counts of 0. A body
outside its ranges is refused with BAD_FIELD: a presence byte of 8 or more, a rate that fails R2, a segment length not
from 8 to 720, a cue quota present and not from 16 to 4,096, a clip quota not from 4 to 1,024, a span of 0 (R2, R3, R22,
R196). -/
def Obligations.JopnOpensJob : Prop :=
  ∀ (s : State) (r : Req) (j : Fin 8), s.ready = true → slotOf r.job = some j → s.slot j = .free →
    (let p := field r.body 0 1
     let num := field r.body 1 4
     let den := field r.body 5 2
     let len := field r.body 7 2
     let cues := field r.body 9 2
     let clips := field r.body 11 2
     let span := field r.body 13 4
     let valid := r.body.length = 17 ∧ p < 8 ∧ 1 ≤ den ∧ den ≤ 1001 ∧ num ≤ 240000 ∧ 10 * den ≤ num ∧ num ≤ 120 * den ∧
       8 ≤ len ∧ len ≤ 720 ∧ (p.testBit 0 = true → 16 ≤ cues ∧ cues ≤ 4096) ∧
       (p.testBit 1 = true → 4 ≤ clips ∧ clips ≤ 1024) ∧ (p.testBit 2 = true → span ≠ 0)
     (¬valid → exec (.jopn r) s = s.answered .jopn r .badField []) ∧
     (valid → parseJopn r.body = some ⟨num, den, len, if p.testBit 0 then some cues else none,
       if p.testBit 1 then some clips else none, if p.testBit 2 then some span else none⟩)) ∧
    (parseJopn r.body = none → exec (.jopn r) s = s.answered .jopn r .badField []) ∧
    ∀ f, parseJopn r.body = some f →
      let limit := 86400 * f.num / f.den
      let n := match f.span with | some n => min n limit | none => limit
      ∃ b : Job,
        exec (.jopn r) s = (s.setJob j b).answered .jopn r (if f.span.any (limit < ·) then .clamped else .ok)
          (beBytes 4 n) ∧
        b.state = .opened ∧ b.tb = ⟨f.num, f.den, n, none⟩ ∧ b.segLen = f.segLen ∧
        b.cueQuota = f.cueQuota.getD 512 ∧ b.clipQuota = f.clipQuota.getD 128 ∧ (∀ i, b.track i = none) ∧
        b.laneSet = ⟨false, 2, 120, .odd, 0x3F⟩ ∧
        b.det = ⟨[135, 145, 155, 165, 175, 185, 195, 205], 0xFF#8, 0x1C#8, 4, 15, 3, true, 25⟩ ∧ b.w = none ∧ b.e = none ∧
        b.untimed = [] ∧ b.latch = [] ∧ b.nextArrival = 0 ∧ b.park = none ∧ b.lastProducer = .notice ∧
        b.notices = ⟨List.replicate 17 0, 0x0000F004#32, false, false, 0#16⟩ ∧
        rateOk f.num f.den = true ∧ 8 ≤ f.segLen ∧ f.segLen ≤ 720

/-- TDEF in OPEN defines or replaces the track its body names, with the default ducking parameters on a DESC track; a
fifth DESC track or a service another TEXT track has is refused with BAD_TRACK (R41, R42). Before that, BAD_FIELD
refuses a number above 15, another kind, a language that is not three letters from 61h to 7Ah, an output byte above 1, a
service above 4, a service on a DESC track, and a TEXT track with no output. -/
def Obligations.TdefDefinesTrack : Prop :=
  (∀ (s : State) (r : Req) (j : Fin 8) (b : Job) (n k l1 l2 l3 o v : Byte), s.asked r j b → b.state = .opened →
    r.body = [n, k, l1, l2, l3, o, v] →
    let letter := fun x : Byte => 0x61 ≤ x.toNat ∧ x.toNat ≤ 0x7A
    let valid := n.toNat ≤ 15 ∧ k.toNat ≤ 1 ∧ letter l1 ∧ letter l2 ∧ letter l3 ∧ o.toNat ≤ 1 ∧ v.toNat ≤ 4 ∧
      (k = 1#8 → v = 0#8) ∧ (k = 0#8 → o = 1#8 ∨ v ≠ 0#8)
    (¬valid → exec (.tdef r) s = s.answered .tdef r .badField []) ∧
    (valid → ∃ f, parseTdef r.body = some f ∧ f.track.val = n.toNat ∧ f.desc = (k == 1#8) ∧ f.language = [l1, l2, l3] ∧
      f.segOut = (o == 1#8) ∧ f.service = v.toNat)) ∧
  ∀ (s : State) (r : Req) (j : Fin 8) (b : Job) (f : TdefFields), s.asked r j b → b.state = .opened →
    parseTdef r.body = some f →
    let others := trackNumbers.filter fun i => i != f.track
    let descs := (others.filter fun i => (b.desc? i).isSome).length
    let taken := others.any fun i => match b.text? i with | some t => t.service == f.service | none => false
    let track : Track :=
      if f.desc then
        .desc ⟨f.language, f.segOut, ⟨-48, -24, 9600, 14400, 24000, 4800, 4800, 9600, .duckOver⟩, [], [], none, .none, [],
          ⟨0, 0⟩⟩
      else .text ⟨f.language, f.segOut, f.service, []⟩
    if (f.desc = true ∧ 4 ≤ descs) ∨ (f.desc = false ∧ f.service ≠ 0 ∧ taken = true) then
      exec (.tdef r) s = s.answered .tdef r .badTrack []
    else
      ∃ b' : Job, b'.track f.track = some track ∧ (∀ i, i ≠ f.track → b'.track i = b.track i) ∧
        { b' with tracks := b.tracks } = b ∧
        exec (.tdef r) s = (s.setJob j b').answered .tdef r .ok
          (beBytes 1 (trackNumbers.filter fun i => (b'.track i).isSome).length ++
            beBytes 1 (trackNumbers.filter fun i => (b'.desc? i).isSome).length)

/-- LSET in OPEN replaces the lane settings whole: an absent lookahead, parity or substitute takes its default; a field
outside its values is refused with BAD_FIELD (R81, R82, R196). -/
def Obligations.LsetReplacesSettings : Prop :=
  ∀ (s : State) (r : Req) (j : Fin 8) (b : Job) (p e q l1 l0 par sub : Byte), s.asked r j b → b.state = .opened →
    r.body = [p, e, q, l1, l0, par, sub] →
    let lookahead := if p.getLsbD 0 then l1.toNat * 256 + l0.toNat else 120
    let parity := if p.getLsbD 1 then (if par = 0#8 then Parity.odd else if par = 1#8 then .even else .none) else .odd
    let subst := if p.getLsbD 2 then sub.toNat else 0x3F
    if p.toNat < 8 ∧ e.toNat ≤ 1 ∧ (q = 2#8 ∨ q = 4#8) ∧ 8 ≤ lookahead ∧ lookahead ≤ 600 ∧
        (p.getLsbD 1 = true → par.toNat ≤ 2) ∧ 0x20 ≤ subst ∧ subst ≤ 0x7E then
      exec (.lset r) s =
        (s.setJob j { b with laneSet := ⟨e = 1#8, q.toNat, lookahead, parity, subst⟩ }).answered .lset r .ok []
    else exec (.lset r) s = s.answered .lset r .badField []

/-- DSET in OPEN, ANCHOR_WAIT, RUNNING, HOLDING and HELD replaces thresholds, masks and s, and the optional fields that
are present, the absent ones keeping the value in force; it is refused with BAD_FIELD by the tests of R109, for a
presence byte of 16 or more, and for a mixed-restart byte above 1 that is present (R196). -/
def Obligations.DsetReplacesSettings : Prop :=
  ∀ (s : State) (r : Req) (j : Fin 8) (b : Job) (p sm dm sp dg ds mr h1 h0 : Byte) (ts : List Byte), s.asked r j b →
    b.state ∈ [JobState.opened, .anchorWait, .running, .holding, .held] → ts.length = 8 →
    r.body = p :: ts ++ [sm, dm, sp, dg, ds, mr, h1, h0] →
    let x : DetSettings :=
      { thresholds := ts.map BitVec.toNat, sampleMask := sm, debounceMask := dm, speech := sp.toNat,
        gapDebounce := if p.getLsbD 0 then dg.toNat else b.det.gapDebounce,
        speechDebounce := if p.getLsbD 1 then ds.toNat else b.det.speechDebounce,
        mixedRestart := if p.getLsbD 2 then mr = 1#8 else b.det.mixedRestart,
        holeLimit := if p.getLsbD 3 then h1.toNat * 256 + h0.toNat else b.det.holeLimit }
    let rising := ∀ m n, m < n → n < 8 → sm.getLsbD m = true → sm.getLsbD n = true →
      x.thresholds.getD m 0 < x.thresholds.getD n 0
    (p.toNat < 16 ∧ (p.getLsbD 2 = true → mr.toNat ≤ 1) ∧ rising ∧ sp.toNat ≤ 7 ∧ sm.getLsbD sp.toNat = true ∧
        1 ≤ x.gapDebounce ∧ x.gapDebounce ≤ 250 ∧ 1 ≤ x.speechDebounce ∧ x.speechDebounce ≤ 250 ∧ 1 ≤ x.holeLimit ∧
        x.holeLimit ≤ 500 → exec (.dset r) s = (s.setJob j { b with det := x }).answered .dset r .ok []) ∧
    (16 ≤ p.toNat ∨ (p.getLsbD 2 = true ∧ 1 < mr.toNat) ∨ ¬rising ∨ 7 < sp.toNat ∨ sm.getLsbD sp.toNat = false ∨
        x.gapDebounce = 0 ∨ 250 < x.gapDebounce ∨
        x.speechDebounce = 0 ∨ 250 < x.speechDebounce ∨ x.holeLimit = 0 ∨ 500 < x.holeLimit →
      exec (.dset r) s = s.answered .dset r .badField [])

/-- DUCK sets the present parameters of a DESC track of a job in OPEN or ANCHOR_WAIT, keeps the others, and answers all
nine; a bad body is refused with BAD_FIELD before a place without a DESC track with BAD_TRACK, any other state with
BAD_STATE (R133). A bad body is one with a track above 15, a presence bit above 8, or a parameter present and outside
the values of R132: a depth not from 8 to 160, an extra above 80, a ramp, lead or tail above 48,000, a merge gap or
spacing above 96,000, a policy above 1 (R132, R196). -/
def Obligations.DuckSetsParameters : Prop :=
  ∀ (s : State) (r : Req) (j : Fin 8) (b : Job), s.asked r j b →
    (b.state ≠ .opened → b.state ≠ .anchorWait → exec (.duck r) s = s.answered .duck r .badState []) ∧
    (b.state = .opened ∨ b.state = .anchorWait →
      (let p := field r.body 1 2
       let given := fun i off len => if p.testBit i then some (field r.body off len) else none
       let ranged := fun (i off len lo hi : Nat) =>
         p.testBit i = true → lo ≤ field r.body off len ∧ field r.body off len ≤ hi
       let valid := r.body.length = 30 ∧ field r.body 0 1 ≤ 15 ∧ p < 512 ∧ ranged 0 3 1 8 160 ∧ ranged 1 4 1 0 80 ∧
         ranged 2 5 4 0 48000 ∧ ranged 3 9 4 0 48000 ∧ ranged 4 13 4 0 96000 ∧ ranged 5 17 4 0 48000 ∧
         ranged 6 21 4 0 48000 ∧ ranged 7 25 4 0 96000 ∧ ranged 8 29 1 0 1
       (¬valid → exec (.duck r) s = s.answered .duck r .badField []) ∧
       (valid → ∃ i : Fin 16, i.val = field r.body 0 1 ∧ parseDuck r.body = some
         ⟨i, given 0 3 1, given 1 4 1, given 2 5 4, given 3 9 4, given 4 13 4, given 5 17 4, given 6 21 4, given 7 25 4,
           if p.testBit 8 then some (if field r.body 29 1 = 0 then .duckOver else .drop) else none⟩)) ∧
      (parseDuck r.body = none → exec (.duck r) s = s.answered .duck r .badField []) ∧
      ∀ f, parseDuck r.body = some f →
        (b.desc? f.track = none → exec (.duck r) s = s.answered .duck r .badTrack []) ∧
        ∀ t, b.desc? f.track = some t →
          let u : Ducking :=
            { depth := (f.depth.map gainOf).getD t.duck.depth, extra := (f.extra.map gainOf).getD t.duck.extra,
              rampDown := f.rampDown.getD t.duck.rampDown, rampUp := f.rampUp.getD t.duck.rampUp,
              mergeGap := f.mergeGap.getD t.duck.mergeGap, lead := f.lead.getD t.duck.lead,
              tail := f.tail.getD t.duck.tail, spacing := f.spacing.getD t.duck.spacing,
              policy := f.policy.getD t.duck.policy }
          exec (.duck r) s = (s.setJob j (b.setTrack f.track (.desc { t with duck := u }))).answered .duck r .ok
            (beBytes 1 u.depth.natAbs ++ beBytes 1 u.extra.natAbs ++ beBytes 4 u.rampDown ++ beBytes 4 u.rampUp ++
              beBytes 4 u.mergeGap ++ beBytes 4 u.lead ++ beBytes 4 u.tail ++ beBytes 4 u.spacing ++
              beBytes 1 u.policy.code))

/-- JGO in OPEN with a track defined: with an anchor the job becomes RUNNING and its progress starts from the beginning
(R25), without one it becomes ANCHOR_WAIT with an empty untimed list; with no track it is refused with BAD_TRACK (R24).
-/
def Obligations.JgoStartsJob : Prop :=
  ∀ (s : State) (r : Req) (j : Fin 8) (b : Job), s.asked r j b → b.state = .opened →
    (parseJgo r.body ≠ none → (∀ i, b.track i = none) → exec (.jgo r) s = s.answered .jgo r .badTrack []) ∧
    ((∃ i, b.track i ≠ none) →
      (r.body = [] →
        exec (.jgo r) s = (s.setJob j { b with state := .anchorWait, untimed := [] }).answered .jgo r .ok [2#8]) ∧
      ∀ a, a < 2 ^ 32 → r.body = beBytes 4 a →
        ∃ b' : Job, exec (.jgo r) s = (s.setJob j b').answered .jgo r .ok [3#8] ∧
          b'.seg = ⟨0, 0, none, false⟩ ∧
          b'.lane = ⟨0, 0, List.replicate 4 ⟨none, none⟩, none, false, false⟩ ∧ b'.cls = ⟨0, false, none, none⟩ ∧
          b'.gd = ⟨.unsettled, 0, none, 0, 0, none, false, 0⟩ ∧
          { b' with
            state := b.state, tb := b.tb, w := b.w, seg := b.seg, lane := b.lane, cls := b.cls, gd := b.gd,
            gaps := b.gaps } = b ∧
          b'.state = .running ∧ b'.tb = { b.tb with anchor := some a } ∧ b'.w = some 0 ∧ b'.seg.next = 0 ∧
          b'.seg.emitted = 0 ∧ b'.lane.next = 0 ∧ b'.cls.horizon = 0 ∧ b'.gd.state = .unsettled ∧ b'.gaps = [] ∧
          b'.tracks = b.tracks ∧ b'.laneSet = b.laneSet ∧ b'.det = b.det ∧ b'.notices = b.notices)

/-- ANCH in ANCHOR_WAIT sets the anchor, makes the job RUNNING with W 0 and empties the untimed list; its progress
starts from the beginning (R25), and its settings and tracks stay; every untimed cue and clip is counted converted or
dropped in the reply, six zeros when the list was empty (R27, R28). A cue is converted exactly when it passes the tests
of R50 to R52 at W 0 with the new anchor, and its entry, with the frames and marks so judged, joins its track's list in
the order of start frames, DONE or WAITING on a track on the lane as its caption has rows (R48, R57, R88); on a track
without segment output a cue without rows has no consumer left and leaves at once (R53, R60). The conversion of a cue
counts no notice (R28, R54, R88; that 95_what_each_step_holds.md names LANE_TRUNCATED within ANCH yields to the chapters
is assumption 19): only the three kinds of a clip's resolution may count. A clip is converted when it passes those of
R138 and R139, unless its track already holds 64 clips, and joins its track's clips with the d and l so judged (R142).
-/
def Obligations.AnchConvertsUntimed : Prop :=
  ∀ (s : State) (r : Req) (j : Fin 8) (b : Job) (a : Nat), s.asked r j b → b.state = .anchorWait → a < 2 ^ 32 →
    r.body = beBytes 4 a →
    let b0 : Job := { b with tb := { b.tb with anchor := some a }, w := some 0 }
    let cueTaken := fun u : Untimed =>
      match u with
      | .cue c =>
        match b.text? c.track, b0.judgeCue c.startMs c.endMs with | some _, .take iv => some iv | _, _ => none
      | .clip _ => none
    let clipTaken := fun u : Untimed =>
      match u with
      | .cue _ => none
      | .clip c =>
        match b.desc? c.track, b0.judgeClip c.startMs c.latestMs c.dur with | some _, .take x => some x | _, _ => none
    let entry := fun (t : TextTrack) (c : UntimedCue) (iv : Interval) =>
      let x : Cue :=
        ⟨c.id, c.region, c.text, c.laneText, iv.startF, iv.endF, iv.clipped, iv.stretched, iv.clamped, .off, c.arrival⟩
      if b.laneSet.enabled = true ∧ t.service ≠ 0 then
        { x with lane := if x.rows b.laneSet = [] then .done else .waiting }
      else x
    let joins := fun (t : TextTrack) (x : Cue) => t.segOut = true ∨ x.lane = .waiting
    let joinsHere := fun (i : Fin 16) (t : TextTrack) (u : Untimed) =>
      match u with
      | .cue c => c.track == i && (cueTaken u).any fun iv => decide (joins t (entry t c iv))
      | .clip _ => false
    let clipOn := fun (i : Fin 16) (u : Untimed) => match u with | .cue _ => false | .clip c => c.track == i
    let roomFor := fun (i : Fin 16) (t : DescTrack) => t.live.length + (b.untimed.filter (clipOn i)).length ≤ 64
    ∃ (b' : Job) (n : AnchCounts),
      exec (.anch r) s = (s.setJob j b').answered .anch r .ok
        (beBytes 2 n.cues ++ beBytes 2 n.cuesClipped ++ beBytes 2 n.cuesDropped ++ beBytes 2 n.clips ++
          beBytes 2 n.clipsClipped ++ beBytes 2 n.clipsDropped) ∧
      b'.state = .running ∧ b'.tb = { b.tb with anchor := some a } ∧ b'.w = some 0 ∧ b'.untimed = [] ∧
      b'.seg = ⟨0, 0, none, false⟩ ∧ b'.lane = ⟨0, 0, List.replicate 4 ⟨none, none⟩, none, false, false⟩ ∧
      b'.cls = ⟨0, false, none, none⟩ ∧ b'.gd = ⟨.unsettled, 0, none, 0, 0, none, false, 0⟩ ∧ b'.gaps = [] ∧
      b'.laneSet = b.laneSet ∧ b'.det = b.det ∧
      { b' with
        state := b.state, tb := b.tb, w := b.w, untimed := b.untimed, seg := b.seg, lane := b.lane, cls := b.cls,
        gd := b.gd, gaps := b.gaps, tracks := b.tracks, notices := b.notices } = b ∧
      (∀ i t, b.desc? i = some t → ∃ t', b'.desc? i = some t' ∧ t'.language = t.language ∧ t'.segOut = t.segOut ∧
        t'.duck = t.duck ∧ t'.base = t.base) ∧
      n.cues + n.cuesDropped = (b.untimed.filter Untimed.isCue).length ∧
      n.clips + n.clipsDropped = (b.untimed.filter fun u => !u.isCue).length ∧
      n.cues = (b.untimed.filter fun u => (cueTaken u).isSome).length ∧
      n.cuesClipped = (b.untimed.filter fun u => (cueTaken u).any Interval.clipped).length ∧
      n.clips ≤ (b.untimed.filter fun u => (clipTaken u).isSome).length ∧ n.clipsClipped ≤ n.clips ∧
      ((∀ i t, b.desc? i = some t → roomFor i t) →
        n.clips = (b.untimed.filter fun u => (clipTaken u).isSome).length ∧
        n.clipsClipped = (b.untimed.filter fun u => (clipTaken u).any Starts.clipped).length) ∧
      (∀ i, b.text? i = none → b'.text? i = none) ∧
      (∀ i t, b.text? i = some t → ∃ t', b'.text? i = some t' ∧ t' = { t with cues := t'.cues } ∧
        (∀ y, y ∈ t'.cues ↔ y ∈ t.cues ∨ ∃ c iv, Untimed.cue c ∈ b.untimed ∧ c.track = i ∧
          cueTaken (.cue c) = some iv ∧ joins t (entry t c iv) ∧ y = entry t c iv) ∧
        t'.cues.length = t.cues.length + (b.untimed.filter (joinsHere i t)).length ∧
        (t.cues.Pairwise (fun x y => x.startF ≤ y.startF) → t'.cues.Pairwise fun x y => x.startF ≤ y.startF)) ∧
      b'.notices.enables = b.notices.enables ∧
      (∀ k, k ≠ 10 → k ≠ 11 → k ≠ 12 → b'.notices.counts.getD k 0 = b.notices.counts.getD k 0) ∧
      ((∀ i, b.desc? i = none) → b'.notices = b.notices) ∧
      ∀ c x t, Untimed.clip c ∈ b.untimed → clipTaken (.clip c) = some x → b.desc? c.track = some t →
        roomFor c.track t →
        ∃ t', b'.desc? c.track = some t' ∧ ∃ k ∈ t'.pending ++ t'.placed, k.id = c.id ∧ k.ref = c.ref ∧
          k.arrival = c.arrival ∧ k.d = x.d ∧ k.l = x.l

/-! ### Holding, finishing, ending -/

/-- HOLD in RUNNING: with no emission in flight the job becomes HELD and HELD is counted, otherwise it becomes HOLDING;
nothing else of the job changes (R29). -/
def Obligations.HoldHoldsJob : Prop :=
  ∀ (s : State) (r : Req) (j : Fin 8) (b : Job), s.asked r j b → b.state = .running → r.body = [] →
    if b.seg.flight = none ∧ b.lane.flight = none then
      exec (.hold r) s =
        (s.setJob j { b with state := .held, notices := b.notices.report eventBase 14 1 }).answered .hold r .ok [5#8]
    else exec (.hold r) s = (s.setJob j { b with state := .holding }).answered .hold r .ok [4#8]

/-- RSUM in HELD makes the job RUNNING and processes its latch from head to tail, each record as a direct request to a
RUNNING job against what the records before it have left; a refusal counts LATCH_REFUSED once. Then the producers are
run. The latch is empty, the timebase and the other slots are unchanged, and the reply counts every latched record as
processed, and those refused (R32, R33). That the Segmenter comes before the scheduler is the model's choice (assumption
7), and that an emission may begin before the latch is worked off its reading (assumption 26). -/
def Obligations.RsumResumesJob : Prop :=
  (∀ (s : State) (r : Req) (j : Fin 8) (b : Job), s.asked r j b → b.state = .held → r.body = [] →
    (∀ rec ∈ b.latch, ∃ k, Kind.ofCode rec.kind = some k) →
    let x := b.latch.foldl (processLatched j) ⟨s.setJob j { b with state := .running, latch := [] }, 0, 0⟩
    let u := x.s.pump j
    exec (.rsum r) s = u.answered .rsum r .ok (beBytes 1 b.latch.length ++ beBytes 1 x.refused) ∧
    x.processed = b.latch.length ∧ x.refused ≤ b.latch.length ∧
    (∃ b', u.job? j = some b' ∧ b'.state = .running ∧ b'.latch = [] ∧ b'.tb = b.tb) ∧
    (∀ k, k ≠ j → u.slot k = s.slot k) ∧ u.parkSerial = s.parkSerial) ∧
  (∀ (j : Fin 8) (x : LatchRun) (rec : LinkRecord) (c : Job) (k : Kind), x.s.slot j = .job c →
    Kind.ofCode rec.kind = some k →
    let y := runData k rec.body j c x.s
    (16 ≤ y.st.code.toNat →
      ∃ d : Job, y.s.slot j = .job d ∧
        processLatched j x rec =
          ⟨y.s.setJob j { d with notices := d.notices.report eventBase 13 1 }, x.processed + 1, x.refused + 1⟩) ∧
    (y.st.code.toNat < 16 → processLatched j x rec = ⟨y.s, x.processed + 1, x.refused⟩)) ∧
  ∀ (k : Kind) (r : Req) (s : State) (j : Fin 8) (c : Job), isData k = true → s.asked r j c → c.state = .running →
    let y := runData k r.body j c s
    exec (requestOf k r) s = y.s.answered k r y.st
      (if k = .adv then (match y.s.job? j with | some d => optBytes 4 d.w | none => []) else y.fields)

/-- FIN in RUNNING: below W it is refused with BEHIND, above N with BEYOND_SPAN; otherwise the job is FINISHING with W
and its end frame at E. First the recorded open gap is closed at its usable end, the horizon or the loud run's start,
and GAP_CLOSED is counted; then every track's heads are resolved as they are at FIN, in track order, each as
PlacedClipFitsGap says, and then every tentative tail is made final: its breakpoint and release point stand at e1 +
ramp-up, or at the end sample where that is lower, but not before e1. The cue lists are unchanged, and so is every other
count but those of the clips. A gap leaves the list only when it is closed behind the emitted-through sample, examined
when a gap was closed or a clip resolved. Then the producers are run and the end condition is tested (R17, R34, R35,
R126, R127, R128, R151, R155). That the detector keeps its items, the gap-recorded flag among them, when its gap is
closed is the model's reading (assumption 31), and that the Segmenter comes before the scheduler its choice (assumption
7). -/
def Obligations.FinFinishesJob : Prop :=
  (∀ (t : DescTrack) (z es : Nat),
    let t' := t.finTail z es
    (t.tailState ≠ .tentative ∨ t.prev = none → t' = t) ∧
    ∀ p, t.tailState = .tentative → t.prev = some p →
      let q := max p.endS (min (p.endS + t.duck.rampUp) es)
      t'.points = t.points ++ (if q < z then [⟨q, 0⟩] else []) ∧ t'.tailState = .final ∧
      { t' with points := t.points, tailState := t.tailState, placed := t.placed } = t ∧
      ((∀ x ∈ t.placed, x.state ≠ .placed ∧ x.state ≠ .overlaid) → t'.placed = t.placed) ∧
      ∀ pre k post, t.placed = pre ++ k :: post → k.state = .placed ∨ k.state = .overlaid →
        (∀ x ∈ post, x.state ≠ .placed ∧ x.state ≠ .overlaid) →
        t'.placed = pre ++ { k with release := some q } :: post) ∧
  ∀ (s : State) (r : Req) (j : Fin 8) (b : Job) (w e : Nat), s.asked r j b → b.state = .running → b.w = some w →
    e < 2 ^ 32 → r.body = beBytes 4 e →
    if e < w then exec (.fin r) s = s.answered .fin r .behind []
    else if b.tb.span < e then exec (.fin r) s = s.answered .fin r .beyondSpan []
    else
      let open_ := (b.gd.state = .gap ∨ b.gd.state = .speechWait) ∧ b.gd.recorded = true
      let usable := if b.gd.state = .speechWait then 960 * b.gd.loudStart.getD 0 else b.cls.horizon
      let noClip := ∀ i t, b.desc? i = some t → t.pending = []
      let c : Job := { b with state := .finishing, w := some e, e := some e }
      let c1 : Job :=
        if open_ then
          { c with
            notices := b.notices.report eventBase 8 1
            gaps := (b.gaps.dropLast ++ (b.gaps.getLast?.map fun g : Gap => { g with endS := some usable }).toList).filter
              fun g => !c.gapRetired g }
        else c
      let resolved := trackNumbers.foldl (fun x i => x.resolveHeads true i (x.pendingCount i)) c1
      ∃ b' : Job, exec (.fin r) s = (((s.setJob j b').pump j).doneTest j).answered .fin r .ok [] ∧
        (∀ i, b'.desc? i =
          (resolved.desc? i).map (DescTrack.finTail (b.tb.firstSample b.tb.span) (b.tb.firstSample e))) ∧
        b'.gaps = resolved.gaps ∧ b'.notices = resolved.notices ∧
        b'.state = .finishing ∧ b'.w = some e ∧ b'.e = some e ∧
        { b' with state := b.state, w := b.w, e := b.e, tracks := b.tracks, gaps := b.gaps, notices := b.notices } = b ∧
        (∀ i, b'.text? i = b.text? i) ∧
        (∀ i t, b'.desc? i = some t → t.pending = [] ∧ (t.prev ≠ none → t.tailState ≠ .tentative)) ∧
        (b.notices.counts.length = 17 →
          (b'.notices.counts.getD 8 0 = if open_ then min 255 (b.notices.counts.getD 8 0 + 1)
            else b.notices.counts.getD 8 0) ∧
          ∀ i, i ≠ 8 → i ≠ 10 → i ≠ 11 → i ≠ 12 → b'.notices.counts.getD i 0 = b.notices.counts.getD i 0) ∧
        b'.notices.enables = b.notices.enables ∧
        (¬open_ → noClip → b'.gaps = b.gaps) ∧
        ∀ closed : List Gap,
          (¬open_ → closed = b.gaps) →
          (open_ → ∃ pre g, b.gaps = pre ++ [g] ∧ closed = pre ++ [{ g with endS := some usable }]) →
          (∀ g ∈ b'.gaps, ∃ h ∈ closed, g = { h with placements := g.placements }) ∧
          (open_ ∨ ¬noClip → ∀ h ∈ closed,
            (∃ g ∈ b'.gaps, g = { h with placements := g.placements }) ↔
              ¬∃ x, h.endS = some x ∧ x ≤ b.emittedSample)

/-- ABRT without a body frees a RESTORING slot; it ends a job whose lane needs no reset frames, or whose reset frames
find room, with the reply carrying the state it was in and the latched records discarded; reset frames that find no
room, or find a claimant waiting, wait, and the ABRT with them: no reply is placed yet, nothing but the park's end
changes in the store, and no other slot changes but for what follows any event (R37, R38, R106, R182). Reset frames are
placed for a job that is not DONE, whose lane is enabled and not closed, with at least one frame placed and a service in
use: a RESET record from the next lane frame on, a RESET pair for each service in use, FILL up to whole frames. The PARK
reply of a PARKING job is finished as ABORTED with the serial, the form, the parts placed and the records discarded
(R169). That the park is ended and the latch empty at once, although R37 discards the latch in its step 3, after the
wait, is the model's (assumptions 16 and 42), and so is that a NOTE of the job that waits goes on waiting: of the job's
own producers the Notice Unit alone still counts among the waiting claimants (assumption 43). That reset frames placed
at once leave the claimant served last as it was is its reading (assumption 9). -/
def Obligations.AbrtEndsJob : Prop :=
  (∀ (j : Fin 8) (b : Job),
    let us := [1, 2, 3, 4].filter fun sv => b.laneSet.enabled &&
      trackNumbers.any fun i => (b.text? i).any fun t => t.service == sv
    let slots := b.laneSet.symbols / 2
    let n := (us.length + slots - 1) / slots
    (b.resetFlight j = none ↔ us = [] ∨ b.lane.next = 0 ∨ b.lane.closed = true ∨ b.state = .done) ∧
    ∀ fl, b.resetFlight j = some fl → fl.kind = .reset ∧ fl.frames = n ∧
      fl.record = ⟨0x85#8, jobNumber j, 0#8, BitVec.ofNat 16 b.lane.next,
        [2#8] ++ beBytes 4 b.lane.next ++ beBytes 1 n ++ beBytes 1 b.laneSet.symbols ++
          symbolBytes b.laneSet.parity ((us.map fun sv => (BitVec.ofNat 8 (0x0F + sv), 0x43#8)) ++
            List.replicate (n * slots - us.length) (0x00#8, 0x00#8))⟩) ∧
  (∀ (s : State) (j : Fin 8) (b : Job),
    (b.park = none → s.abortPark j b = s) ∧
    ∀ p, b.park = some p → { s.abortPark j b with store := s.store } = s ∧
      (s.abortPark j b).store = s.store.map fun x =>
        if x.unfinished = true ∧ x.owner = some j then
          { x with
            unfinished := false, owner := none
            record := { x.record with
              body := x.record.body.take 1 ++ [31#8] ++ beBytes 2 p.serial.toNat ++ beBytes 1 p.form.code ++
                beBytes 1 p.placed ++ beBytes 1 p.discarded } }
        else x) ∧
  ∀ (s : State) (r : Req) (j : Fin 8), s.ready = true → slotOf r.job = some j → r.body = [] →
    (∀ a, s.slot j = .restoring a → exec (.abrt r) s = (s.freeSlot j).answered .abrt r .ok [7#8, 0#8]) ∧
    ∀ b, s.slot j = .job b →
      let s1 := s.abortPark j b
      let fields := beBytes 1 b.state.code ++ beBytes 1 b.latch.length
      let waiting := (s.setJob j { b with
        seg := { b.seg with flight := none, wait := false }, lane := { b.lane with flight := none, wait := false },
        park := none }).anyWaiting
      (b.resetFlight j = none → exec (.abrt r) s = (s1.freeSlot j).answered .abrt r .ok fields) ∧
      ∀ fl, b.resetFlight j = some fl →
        (8 < s.freeEntries → waiting = false →
          exec (.abrt r) s = ((s1.placeOutput j fl.record false).freeSlot j).answered .abrt r .ok fields) ∧
        (s.freeEntries ≤ 8 ∨ waiting = true → ∃ b' : Job,
          exec (.abrt r) s = .next ({ s1.setJob j b' with
            abort := some ⟨j, requestRecord Kind.abrt.code r, b.state, b.latch.length⟩ } : State).after ∧
          b'.lane = { b.lane with flight := some fl, wait := true } ∧ b'.latch = [] ∧ b'.park = none ∧
          b'.seg = { b.seg with flight := none, wait := false } ∧ b'.notices = b.notices.report eventBase 16 1 ∧
          { b' with lane := b.lane, latch := b.latch, park := b.park, seg := b.seg, notices := b.notices } = b)

/-- RLS in DONE discards the job record and the slot becomes FREE; the records already in the store, NOTEs of the job
among them, stay and are sent; in any other state it is refused with BAD_STATE (R36). -/
def Obligations.RlsFreesSlot : Prop :=
  ∀ (s : State) (r : Req) (j : Fin 8), s.ready = true → slotOf r.job = some j →
    ((∀ b, s.slot j = .job b → b.state ≠ .done) → exec (.rls r) s = s.answered .rls r .badState []) ∧
    ∀ b, s.slot j = .job b → b.state = .done → r.body = [] →
      exec (.rls r) s = (s.freeSlot j).answered .rls r .ok [] ∧
      (s.freeSlot j).slot j = .free ∧ (∀ k, k ≠ j → (s.freeSlot j).slot k = s.slot k) ∧
      (s.freeSlot j).store.map OutEntry.record = s.store.map OutEntry.record ∧
      (s.freeSlot j).tx.map Tx.wire = s.tx.map Tx.wire ∧
      ({ s.freeSlot j with slots := s.slots, store := s.store, tx := s.tx } : State) = s

/-! ### Queries -/

/-- JQRY and GQRY are taken in every state, change nothing, and report the slot by the rows of R197: a FREE or RESTORING
slot its state and a restoring one its allocations, a job its state, marks, progress and entries, the items it reports
only from RUNNING onward as absent before (R39); GQRY the detector, its run items where they are in force, and up to 32
gaps from the position asked (R130). After JQRY's row stands the job's span N as set (R3). A position beyond 63 is
refused with BAD_FIELD. That N stands last, in four bytes, absent without a job, is the model's choice (assumption 40),
and so is the gap-recorded byte of 0 outside GAP and SPEECH_WAIT (assumption 46). -/
def Obligations.QueriesReportSlot : Prop :=
  [JobState.opened, .anchorWait, .running, .holding, .held, .parking, .finishing, .done].map JobState.code =
    [1, 2, 3, 4, 5, 6, 8, 9] ∧
  [DetState.unsettled, .speech, .gapWait, .gap, .speechWait].map DetState.code = [0, 1, 2, 3, 4] ∧
  ∀ (s : State) (r : Req) (j : Fin 8), s.ready = true → slotOf r.job = some j →
    let absent := fun n : Nat => List.replicate n (0xFF#8 : Byte)
    let opt := fun x : Option Nat => match x with | some n => beBytes 4 n | none => absent 4
    let early := fun b : Job => b.state == .opened || b.state == .anchorWait
    (r.body = [] →
      (s.slot j = .free → exec (.jqry r) s = s.answered .jqry r .ok (0#8 :: absent 33)) ∧
      (∀ a, s.slot j = .restoring a →
        exec (.jqry r) s = s.answered .jqry r .ok
          (7#8 :: absent 21 ++ beBytes 2 a.cues ++ beBytes 2 a.blocks ++ beBytes 2 a.clips ++ absent 6)) ∧
      ∀ b, s.slot j = .job b →
        exec (.jqry r) s = s.answered .jqry r .ok
          (beBytes 1 b.state.code ++ opt b.w ++ opt b.e ++
            (if early b then absent 13
             else beBytes 4 b.seg.next ++ beBytes 4 b.lane.next ++ beBytes 4 b.cls.horizon ++
              beBytes 1 b.gd.state.code) ++
            beBytes 2 b.cueCount ++ beBytes 2 b.blockCount ++ beBytes 2 b.clipCount ++
            (if early b then absent 1 else beBytes 1 b.gaps.length) ++ beBytes 1 b.latch.length ++ beBytes 4 b.tb.span)) ∧
    ∀ n : Byte, r.body = [n] →
      (63 < n.toNat → exec (.gqry r) s = s.answered .gqry r .badField []) ∧
      (n.toNat ≤ 63 →
        (s.slot j = .free → exec (.gqry r) s = s.answered .gqry r .ok (0#8 :: absent 22 ++ [0#8])) ∧
        (∀ a, s.slot j = .restoring a → exec (.gqry r) s = s.answered .gqry r .ok (7#8 :: absent 22 ++ [0#8])) ∧
        ∀ b, s.slot j = .job b →
          let d := b.gd
          let out := (b.gaps.drop n.toNat).take 32
          exec (.gqry r) s = s.answered .gqry r .ok
            (beBytes 1 b.state.code ++
              if early b then absent 22 ++ [0#8]
              else
                [if b.cls.levelsSeen then 1#8 else 0#8] ++ beBytes 4 b.cls.horizon ++ beBytes 1 d.state.code ++
                  (if d.state = .gapWait then beBytes 1 d.quietCount ++ opt d.quietStart else 0#8 :: absent 4) ++
                  (if d.state = .speechWait then beBytes 1 d.loudCount ++ opt d.loudStart else 0#8 :: absent 4) ++
                  [if d.recorded = true ∧ (d.state = .gap ∨ d.state = .speechWait) then 1#8 else 0#8] ++
                  beBytes 4 d.nextGap ++ beBytes 1 b.gaps.length ++ beBytes 1 out.length ++
                  out.flatMap fun g =>
                    beBytes 4 g.num ++ beBytes 4 g.start ++ opt g.endS ++ beBytes 2 g.mixed ++ beBytes 2 g.placements))

/-- DQRY changes nothing and reports the free entries of the three pools, the states of the eight slots and the park
serial the next PARK will be given; with a job field other than 0 it is refused with BAD_FIELD (R40). -/
def Obligations.DqryReportsDevice : Prop :=
  ∀ (s : State) (r : Req), s.ready = true →
    (r.job ≠ 0#8 → exec (.dqry r) s = s.answered .dqry r .badField []) ∧
    (r.job = 0#8 → r.body = [] →
      exec (.dqry r) s = s.answered .dqry r .ok
        (beBytes 2 (4096 - total (slotNumbers.map fun j => (s.slot j).cueCount)) ++
          beBytes 2 (8192 - total (slotNumbers.map fun j => (s.slot j).blockCount)) ++
          beBytes 2 (1024 - total (slotNumbers.map fun j => (s.slot j).clipCount)) ++
          slotNumbers.flatMap (fun j => beBytes 1 (s.slot j).code) ++ beBytes 2 s.parkSerial.toNat))

/-! ### Cues -/

/-- A CUE at a RUNNING job meets the tests of R49 in their order: BAD_FIELD, BAD_TRACK, DUPLICATE, LATE behind the
anchor, BEYOND_SPAN, LATE behind W, QUOTA_FULL, POOL_FULL with POOL_EXHAUSTED counted. One that passes takes the next
arrival number and is stored with its frames and marks, its region and texts, the lane text on a lane track alone, and
on the lane as WAITING, or DONE without a row; marks count CUE_CLIPPED, a degraded caption LANE_TRUNCATED. It joins its
track's list after every cue that starts no later and before every one that starts later, which keeps the list in order,
unless no consumer is left for it, and then it is freed at once (R45 to R53, R60, R88). The reply carries frames and
marks. BAD_FIELD is a track above 15, a region above 1, an end before the start, a text not of 1 to 480 bytes, a lane
text above 122 bytes, or a length other than 17 + t + l (R46, R196). In ANCHOR_WAIT tests 1, 2, 3, 7 and 8 are made and
it joins the untimed list (R26, R56). -/
def Obligations.CueIsStored : Prop :=
  (∀ (s : State) (r : Req) (j : Fin 8) (b : Job), s.asked r j b → b.state = .running ∨ b.state = .anchorWait →
    (let t := field r.body 14 2
     let l := field r.body 16 1
     let valid := r.body.length = 17 + t + l ∧ field r.body 0 1 ≤ 15 ∧ field r.body 13 1 ≤ 1 ∧
       field r.body 5 4 ≤ field r.body 9 4 ∧ 1 ≤ t ∧ t ≤ 480 ∧ l ≤ 122
     (¬valid → exec (.cue r) s = s.answered .cue r .badField []) ∧
     (valid → ∃ i : Fin 16, i.val = field r.body 0 1 ∧ parseCue r.body = some
       ⟨i, field r.body 1 4, field r.body 5 4, field r.body 9 4, if field r.body 13 1 = 0 then .bottom else .top,
         (r.body.drop 17).take t, if l = 0 then none else some ((r.body.drop (17 + t)).take l)⟩)) ∧
    (parseCue r.body = none → exec (.cue r) s = s.answered .cue r .badField []) ∧
    ∀ f, parseCue r.body = some f →
      (b.text? f.track = none → exec (.cue r) s = s.answered .cue r .badTrack []) ∧
      ∀ t, b.text? f.track = some t →
        let kept := if b.onLane t then f.laneText else none
        let room := fun stored : Prop =>
          if b.cueQuota ≤ b.cueCount then exec (.cue r) s = s.answered .cue r .quotaFull []
          else if s.freeCues = 0 ∨ s.freeBlocks < blocksOf f.text kept then
            exec (.cue r) s = (s.alert .poolExhausted).answered .cue r .poolFull []
          else stored
        (b.state = .running →
          let a := b.tb.anchor.getD 0
          let w := b.w.getD 0
          let f0 := b.tb.frameOf (f.startMs - a)
          let f1 := b.tb.frameOf (f.endMs - a)
          let fe := min (max f1 (f0 + 1)) b.tb.span
          let clipped := decide (f.startMs < a ∨ f0 < w)
          let stretched := decide (f1 = f0)
          let clamped := decide (b.tb.span < f1)
          let c0 : Cue := ⟨f.id, f.region, f.text, kept, max f0 w, fe, clipped, stretched, clamped, .off, b.nextArrival⟩
          let mark := if b.onLane t then (if c0.rows b.laneSet = [] then LaneMark.done else .waiting) else .off
          let unread := (t.segOut = false ∨ fe ≤ b.seg.emitted) ∧ (b.onLane t = false ∨ mark = .done)
          if ∃ c ∈ t.cues, c.id = f.id then exec (.cue r) s = s.answered .cue r .duplicate []
          else if f.endMs ≤ a then exec (.cue r) s = s.answered .cue r .late []
          else if b.tb.span ≤ f0 then exec (.cue r) s = s.answered .cue r .beyondSpan []
          else if fe ≤ w then exec (.cue r) s = s.answered .cue r .late []
          else room (∃ b' : Job,
            exec (.cue r) s = (s.setJob j b').answered .cue r
              (if clipped then .clipped else if clamped then .clamped else .ok)
              (beBytes 4 (max f0 w) ++ beBytes 4 fe ++ beBytes 1 ((if clipped then 1 else 0) +
                (if stretched then 2 else 0) + (if clamped then 4 else 0))) ∧
            b'.nextArrival = b.nextArrival + 1 ∧ (∀ i, i ≠ f.track → b'.track i = b.track i) ∧
            b'.track f.track = some (.text (if unread then t else
              { t with cues := insertCue { c0 with lane := mark } t.cues })) ∧
            (let n1 := if clipped || stretched || clamped then b.notices.report eventBase 0 1 else b.notices
             b'.notices = if b.onLane t && c0.degraded then n1.report eventBase 3 1 else n1) ∧
            { b' with nextArrival := b.nextArrival, tracks := b.tracks, notices := b.notices } = b)) ∧
        (b.state = .anchorWait →
          if ∃ u ∈ b.untimed, u.isCueOf f.track f.id = true then exec (.cue r) s = s.answered .cue r .duplicate []
          else room (exec (.cue r) s =
            (s.setJob j { b with
              untimed := b.untimed ++ [.cue ⟨f.track, f.id, f.startMs, f.endMs, f.region, f.text, kept, b.nextArrival⟩]
              nextArrival := b.nextArrival + 1 }).answered .cue r .ok []))) ∧
  ∀ (c : Cue) (cues : List Cue), ∃ pre post, cues = pre ++ post ∧ insertCue c cues = pre ++ c :: post ∧
    (∀ x ∈ pre, x.startF ≤ c.startF) ∧ (∀ x, post.head? = some x → c.startF < x.startF) ∧
    (cues.Pairwise (fun x y => x.startF ≤ y.startF) →
      (∀ x ∈ post, c.startF < x.startF) ∧ (insertCue c cues).Pairwise fun x y => x.startF ≤ y.startF)

/-- The interval of a cue that is taken: its frames by R6, the start raised to W, at least one frame, within the span,
its end beyond W; never both stretched and clamped (R6, R50 to R52). -/
def Obligations.CueIntervalIsJudged : Prop :=
  ∀ (b : Job) (ts te : Nat) (iv : Interval), 1 ≤ b.tb.den → ts ≤ te → b.judgeCue ts te = .take iv →
    let a := b.tb.anchor.getD 0
    let w := b.w.getD 0
    let f0 := b.tb.frameOf (ts - a)
    let f1 := b.tb.frameOf (te - a)
    a < te ∧ f0 < b.tb.span ∧ iv.startF = max f0 w ∧ iv.endF = min (max f1 (f0 + 1)) b.tb.span ∧
    iv.startF < iv.endF ∧ w < iv.endF ∧ iv.endF ≤ b.tb.span ∧
    (iv.clipped = true ↔ ts < a ∨ f0 < w) ∧ (iv.stretched = true ↔ f1 = f0) ∧ (iv.clamped = true ↔ b.tb.span < f1) ∧
    ¬(iv.stretched = true ∧ iv.clamped = true)

/-- A data record sent to a HOLDING or HELD job joins the tail of the latch unexamined and is answered LATCHED; a
seventeenth is refused with BUSY (R31). -/
def Obligations.LatchTakesData : Prop :=
  ∀ (k : Kind) (r : Req) (s : State) (j : Fin 8) (b : Job), isData k = true → s.asked r j b →
    b.state = .holding ∨ b.state = .held →
    if b.latch.length < 16 then
      exec (requestOf k r) s =
        (s.setJob j { b with latch := b.latch ++ [requestRecord k.code r] }).answered k r .latched (refusalFields k b.w)
    else exec (requestOf k r) s = s.answered k r .busy (refusalFields k b.w)

/-- CREV at a RUNNING job removes the cue of that id when it starts at or after W, is refused with TOO_LATE when it
starts before, and with NOT_FOUND when no live cue has the id; in ANCHOR_WAIT it removes the untimed cue (R26, R58,
R59). Before that, in both states, a track number above 15 is refused with BAD_FIELD, and a place that is empty or holds
a DESC track with BAD_TRACK. Ids are unique on a track (R49). That a cue which a made-up context has made LOADING or
SHOWN at or after W is removed like any other is the model's choice (assumption 48). -/
def Obligations.CrevRemovesCue : Prop :=
  (∀ (s : State) (r : Req) (j : Fin 8) (b : Job), s.asked r j b → b.state = .running ∨ b.state = .anchorWait →
    (∀ (n x3 x2 x1 x0 : Byte), r.body = [n, x3, x2, x1, x0] →
      if 15 < n.toNat then exec (.crev r) s = s.answered .crev r .badField []
      else ∃ i, parseRevoke r.body = some (i, natOfBytes [x3, x2, x1, x0]) ∧ i.val = n.toNat) ∧
    ∀ i id, parseRevoke r.body = some (i, id) → b.text? i = none →
      exec (.crev r) s = s.answered .crev r .badTrack []) ∧
  ∀ (s : State) (r : Req) (j : Fin 8) (b : Job) (i : Fin 16) (id w : Nat) (t : TextTrack), s.asked r j b →
    parseRevoke r.body = some (i, id) → b.text? i = some t →
    (b.state = .running → b.w = some w →
      ((∀ c ∈ t.cues, c.id ≠ id) → exec (.crev r) s = s.answered .crev r .notFound []) ∧
      ∀ c ∈ t.cues, c.id = id → (∀ d ∈ t.cues, d.id = id → d = c) →
        if c.startF < w then exec (.crev r) s = s.answered .crev r .tooLate []
        else
          exec (.crev r) s = (s.setJob j (b.setTrack i
            (.text { t with cues := t.cues.filter fun d => d.id != id }))).answered .crev r .ok []) ∧
    (b.state = .anchorWait →
      if b.untimed.any (Untimed.isCueOf i id) then
        exec (.crev r) s =
          (s.setJob j { b with untimed := b.untimed.filter fun u => !u.isCueOf i id }).answered .crev r .ok []
      else exec (.crev r) s = s.answered .crev r .notFound [])

/-! ### Clips -/

/-- A CLIP at a RUNNING job meets the tests of R137 in their order: BAD_FIELD, BAD_TRACK, DUPLICATE, LATE behind the
anchor, LATE behind Ws, BEYOND_SPAN, TRACK_FULL, QUOTA_FULL, POOL_FULL with POOL_EXHAUSTED counted. One that passes
joins its track's pending list as PENDING with the d and l its reply carries, d from Ws to l, the whole clip within the
span (R138 to R141): after every clip wanted no later and before every one wanted later, which keeps the list in order.
One that becomes the head is searched for at once, another leads to no search; where the head's search has moved a
settled point the Segmenter tests readiness (R67, R146, R157). BAD_FIELD is a track above 15, a latest start before the
desired one, a duration not from 480 to 2,880,000 samples, a depth byte that is neither 0 nor from 8 to 160, or a length
other than 22 (R135, R196). In ANCHOR_WAIT tests 1, 2, 3, 8 and 9 are made and it joins the untimed list with its source
times (R26, R142). That the scheduler is not tested then, and the Segmenter only where the value of a settled point has
changed, is the model's reading (assumption 33). -/
def Obligations.ClipJoinsPending : Prop :=
  (∀ (s : State) (r : Req) (j : Fin 8) (b : Job), s.asked r j b → b.state = .running ∨ b.state = .anchorWait →
    (let depth := field r.body 21 1
     let valid := r.body.length = 22 ∧ field r.body 0 1 ≤ 15 ∧ field r.body 9 4 ≤ field r.body 13 4 ∧
       480 ≤ field r.body 17 4 ∧ field r.body 17 4 ≤ 2880000 ∧ (depth = 0 ∨ 8 ≤ depth ∧ depth ≤ 160)
     (¬valid → exec (.clip r) s = s.answered .clip r .badField []) ∧
     (valid → ∃ i : Fin 16, i.val = field r.body 0 1 ∧ parseClip r.body = some
       ⟨i, field r.body 1 4, field r.body 5 4, field r.body 9 4, field r.body 13 4, field r.body 17 4,
         if depth = 0 then none else some depth⟩)) ∧
    (parseClip r.body = none → exec (.clip r) s = s.answered .clip r .badField []) ∧
    ∀ f, parseClip r.body = some f →
      (b.desc? f.track = none → exec (.clip r) s = s.answered .clip r .badTrack []) ∧
      ∀ t, b.desc? f.track = some t →
        let room := fun stored : Prop =>
          if b.clipQuota ≤ b.clipCount then exec (.clip r) s = s.answered .clip r .quotaFull []
          else if s.freeClips = 0 then exec (.clip r) s = (s.alert .poolExhausted).answered .clip r .poolFull []
          else stored
        (b.state = .running →
          let a := b.tb.anchor.getD 0
          let ws := b.tb.firstSample (b.w.getD 0)
          let z := b.tb.firstSample b.tb.span
          let d0 := (f.startMs - a) * 48
          let l0 := (f.latestMs - a) * 48
          let d := max d0 ws
          let l := min l0 (z - f.dur)
          if ∃ c ∈ t.live, c.id = f.id then exec (.clip r) s = s.answered .clip r .duplicate []
          else if f.latestMs < a then exec (.clip r) s = s.answered .clip r .late []
          else if l0 < ws then exec (.clip r) s = s.answered .clip r .late []
          else if z < d + f.dur then exec (.clip r) s = s.answered .clip r .beyondSpan []
          else if 64 ≤ t.live.length then exec (.clip r) s = s.answered .clip r .trackFull []
          else room (
            let c : Clip :=
              { id := f.id, ref := f.ref, dur := f.dur, depthOv := f.depthOv.map gainOf, d := d, l := l,
                state := .pending, start := none, depth := none, gap := none, release := none, arrival := b.nextArrival }
            let b1 : Job :=
              { b with nextArrival := b.nextArrival + 1 }.setTrack f.track
                (.desc { t with pending := insertClip c t.pending })
            let status := if f.startMs < a ∨ d0 < ws then Status.clipped else if z < l0 + f.dur then .clamped else .ok
            let fields := beBytes 4 d ++ beBytes 4 l
            ws ≤ d ∧ d ≤ l ∧ l + f.dur ≤ z ∧
            (∀ h, t.pending.head? = some h → h.d ≤ d →
              exec (.clip r) s = (s.setJob j b1).answered .clip r status fields) ∧
            ((∀ h, t.pending.head? = some h → d < h.d) →
              exec (.clip r) s = (s.tested j b (b1.search f.track)).answered .clip r status fields))) ∧
        (b.state = .anchorWait →
          if ∃ u ∈ b.untimed, u.isClipOf f.track f.id = true then exec (.clip r) s = s.answered .clip r .duplicate []
          else room (exec (.clip r) s =
            (s.setJob j { b with
              untimed := b.untimed ++ [.clip ⟨f.track, f.id, f.ref, f.startMs, f.latestMs, f.dur, f.depthOv.map gainOf,
                b.nextArrival⟩]
              nextArrival := b.nextArrival + 1 }).answered .clip r .ok []))) ∧
  ∀ (c : Clip) (clips : List Clip), ∃ pre post, clips = pre ++ post ∧ insertClip c clips = pre ++ c :: post ∧
    (∀ x ∈ pre, x.d ≤ c.d) ∧ (∀ x, post.head? = some x → c.d < x.d) ∧
    (clips.Pairwise (fun x y => x.d ≤ y.d) →
      (∀ x ∈ post, c.d < x.d) ∧ (insertClip c clips).Pairwise fun x y => x.d ≤ y.d)

/-- The head of a pending list is resolved. The gap chosen for it is the first of the list that holds it, the search
ending at a gap whose first possible start lies beyond l and at the open one: the start is the later of c0 and the lead
after the gap's start, at or before l, and the clip with its tail ends by the gap's end, the open gap's usable end, or
at FIN the end sample; when none is chosen, no gap of a list in the order of R125 holds it from its first possible start
(R147, R151). The head is then PLACED, counting in its gap; failed (c0 beyond l, the horizon at or beyond l and its
length and tail, or at FIN) it is OVERLAID or DROPPED by the policy, at FIN OVERLAID only where it ends by the end
sample; otherwise it waits (R148 to R151). Of the gaps exactly those closed ones then leave that end at or before the
emitted-through sample and every pending clip's desired start (R126); no other track and nothing else of the job changes
but the notice counted. A search takes head after head until one waits or none is left, then tests the tail, which
becomes final when no clip to come can merge (R146, R155). The breakpoints are those of a first or separate clip, of one
after a final tail, or of a merge, and the previous clip takes its release point; a clip that ends at the span end
sample adds no breakpoint there (R152 to R154). That a made-up context's list is added to as it stands, so that a
position may fall, and even past 256 breakpoints, is the model's choice (assumptions 44, 50), and so are a gain read
from a base point beyond the sample (assumption 52) and a tail test where neither head nor W has changed (assumption
53). The gain is interpolated between breakpoints, truncated toward zero (R156). -/
def Obligations.PlacedClipFitsGap : Prop :=
  (∀ (usable : Nat) (limit : Option Nat) (c0 l dur lead tail : Nat) (gaps : List Gap),
    (∀ (c num : Nat), fitGaps usable limit c0 l dur lead tail gaps = some (c, num) →
      ∃ pre g post, gaps = pre ++ g :: post ∧ g.num = num ∧ c = max c0 (g.start + lead) ∧ c ≤ l ∧
        (∀ h ∈ pre, let d := max c0 (h.start + lead)
          d ≤ l ∧ ∃ e, h.endS = some e ∧ (e < d + dur + tail ∨ ∃ m, limit = some m ∧ m < d + dur + tail)) ∧
        (∀ e, g.endS = some e → c + dur + tail ≤ e ∧ ∀ m, limit = some m → c + dur + tail ≤ m) ∧
        (g.endS = none → c + dur + tail ≤ usable)) ∧
    (gaps.Pairwise (fun g h => g.start ≤ h.start ∧ g.endS ≠ none) →
      fitGaps usable limit c0 l dur lead tail gaps = none →
      ∀ g ∈ gaps, let c := max c0 (g.start + lead)
        c ≤ l →
        (∀ e, g.endS = some e → e < c + dur + tail ∨ ∃ m, limit = some m ∧ m < c + dur + tail) ∧
        (g.endS = none → usable < c + dur + tail))) ∧
  (∀ (fin : Bool) (b : Job) (i : Fin 16) (t : DescTrack) (k : Clip) (rest : List Clip), b.desc? i = some t →
    t.pending = k :: rest →
    let es := b.tb.firstSample (b.e.getD 0)
    let u := t.duck
    let c0 := max k.d ((match t.prev with | some p => p.endS | none => 0) + u.spacing)
    let base := k.depthOv.getD u.depth
    let usable := if b.gd.state = .speechWait then 960 * b.gd.loudStart.getD 0 else b.cls.horizon
    let fit := fitGaps usable (if fin then some es else none) c0 k.l k.dur u.lead u.tail b.gaps
    let failed := fin = true ∨ k.l + k.dur + u.tail ≤ b.cls.horizon
    let over_ := u.policy = .duckOver ∧ (fin = true → c0 + k.dur ≤ es)
    let keepsRest := fun b' : Job =>
      (∀ m, m ≠ i → b'.track m = b.track m) ∧ { b' with tracks := b.tracks, gaps := b.gaps, notices := b.notices } = b
    let staying := fun (b' : Job) (gaps : List Gap) => gaps.filter fun g => !g.endS.any fun e =>
      decide (e ≤ b.tb.firstSample b.seg.emitted) &&
        trackNumbers.all fun m => (b'.desc? m).all fun v => v.pending.all fun x => decide (e ≤ x.d)
    let soundsAt := fun (kind : Nat) (st : ClipState) (c : Nat) (dk : Int) (gap : Option Nat) =>
      ∃ (b' : Job) (t' : DescTrack), b.resolveHead fin i = some b' ∧ b'.desc? i = some t' ∧ t'.pending = rest ∧
        t'.points = (t.envelope b.spanEnd c dk (c + k.dur)).points ∧
        t'.placed = (t.envelope b.spanEnd c dk (c + k.dur)).placed ++
          [{ k with state := st, start := some c, depth := some dk, gap := gap }] ∧
        t'.prev = some ⟨c + k.dur, dk⟩ ∧ t'.tailState = .tentative ∧ b'.notices = b.notices.report eventBase kind 1 ∧
        { t' with
          pending := t.pending, points := t.points, placed := t.placed, prev := t.prev, tailState := t.tailState } = t ∧
        keepsRest b' ∧ b'.gaps = staying b' (b.gaps.map fun g =>
          { g with placements := if gap = some g.num then min 65535 (g.placements + 1) else g.placements })
    (c0 ≤ k.l → fit = none → ¬failed → b.resolveHead fin i = none) ∧
    (∀ c num, fit = some (c, num) → soundsAt 10 .placed c base (some num)) ∧
    (c0 ≤ k.l → fit = none → failed → over_ →
      soundsAt 11 .overlaid c0 (max (-160) (base + u.extra)) none) ∧
    (k.l < c0 ∨ fit = none ∧ failed ∧ ¬over_ →
      ∃ b' : Job, b.resolveHead fin i = some b' ∧ b'.notices = b.notices.report eventBase 12 1 ∧
        b'.desc? i = some { t with pending := rest, placed := t.placed ++ [{ k with state := .dropped }] } ∧
        keepsRest b' ∧ b'.gaps = staying b' b.gaps)) ∧
  (∀ (fin : Bool) (b : Job) (i : Fin 16),
    ((∀ t, b.desc? i = some t → t.pending = []) → b.resolveHead fin i = none) ∧
    (b.resolveHead fin i = none → ∀ n, b.resolveHeads fin i n = b) ∧
    (∀ b', b.resolveHead fin i = some b' →
      b.resolveHeads fin i (b.pendingCount i) = b'.resolveHeads fin i (b'.pendingCount i) ∧
      b'.pendingCount i < b.pendingCount i) ∧
    b.search i = (b.resolveHeads false i (b.pendingCount i)).testTail i ∧
    (b.testTail i).desc? i =
      (b.desc? i).map (DescTrack.testTail (b.tb.firstSample b.tb.span) (b.tb.firstSample (b.w.getD 0))) ∧
    (∀ k, k ≠ i → (b.testTail i).track k = b.track k) ∧ { b.testTail i with tracks := b.tracks } = b) ∧
  (∀ (t : DescTrack) (z ws : Nat),
    let t' := t.testTail z ws
    let next := match t.pending.head? with | some k => min k.d ws | none => ws
    (t.tailState ≠ .tentative ∨ t.prev = none → t' = t) ∧
    ∀ p, t.tailState = .tentative → t.prev = some p →
      let q := p.endS + t.duck.rampUp
      if (next : Int) - t.duck.rampDown ≤ q + t.duck.mergeGap then t' = t
      else
        t'.points = t.points ++ (if q < z then [⟨q, 0⟩] else []) ∧ t'.tailState = .final ∧
        { t' with points := t.points, tailState := t.tailState, placed := t.placed } = t ∧
        ((∀ x ∈ t.placed, x.state ≠ .placed ∧ x.state ≠ .overlaid) → t'.placed = t.placed) ∧
        ∀ pre k post, t.placed = pre ++ k :: post → k.state = .placed ∨ k.state = .overlaid →
          (∀ x ∈ post, x.state ≠ .placed ∧ x.state ≠ .overlaid) →
          t'.placed = pre ++ { k with release := some q } :: post) ∧
  (∀ (t : DescTrack) (z c e : Nat) (dk : Int), c ≤ e → c < z → (∀ p, t.prev = some p → p.endS ≤ c) →
    let u := t.duck
    let t' := t.envelope z c dk e
    let last : List Breakpoint := if e < z then [⟨e, dk⟩] else []
    let ramp : List Breakpoint := ⟨c - u.rampDown, 0⟩ :: ⟨c, dk⟩ :: last
    let released := fun r : Nat => ∀ pre k post, t.placed = pre ++ k :: post →
      k.state = .placed ∨ k.state = .overlaid → (∀ x ∈ post, x.state ≠ .placed ∧ x.state ≠ .overlaid) →
      t'.placed = pre ++ { k with release := some r } :: post
    (t.prev = none ∨ t.tailState = .final → t'.points = t.points ++ ramp ∧ t'.placed = t.placed) ∧
    ∀ p, t.prev = some p → t.tailState ≠ .final →
      let sep := p.endS + u.rampUp + u.mergeGap + u.rampDown
      (sep ≤ c → t'.points = t.points ++ ⟨p.endS + u.rampUp, 0⟩ :: ramp ∧ released (p.endS + u.rampUp)) ∧
      (c < sep → released p.endS ∧
        (dk = p.depth → t'.points = t.points ++ ⟨c, dk⟩ :: last) ∧
        (dk < p.depth → t'.points = t.points ++ ⟨max (c - u.rampDown) p.endS, p.depth⟩ :: ⟨c, dk⟩ :: last) ∧
        (p.depth < dk → t'.points = t.points ++ ⟨min (p.endS + u.rampUp) c, dk⟩ :: ⟨c, dk⟩ :: last))) ∧
  ∀ (t : DescTrack) (pre post : List Breakpoint) (p : Nat), t.points = pre ++ post → (∀ x ∈ pre, x.pos ≤ p) →
    let cur := pre.getLast?.getD t.base
    (post = [] → t.gainAt p = cur.gain) ∧
    ∀ x, post.head? = some x → p < x.pos →
      t.gainAt p = cur.gain + Int.tdiv ((x.gain - cur.gain) * ((p : Int) - cur.pos)) ((x.pos : Int) - cur.pos)

/-- KREV at a RUNNING job removes a PENDING clip, leads to gap retirement always, and to a search when it was the head,
after which the Segmenter tests readiness where a settled point has moved (R67, R157); a resolved clip is refused with
TOO_LATE, an id of no live clip with NOT_FOUND; in ANCHOR_WAIT it removes the untimed clip (R26, R143, R144). Before
that, in both states, a track number above 15 is refused with BAD_FIELD, and a place that is empty or holds a TEXT track
with BAD_TRACK. That the Segmenter alone is tested then, and only where the value of a settled point has changed, is the
model's reading (assumption 33). -/
def Obligations.KrevRemovesClip : Prop :=
  (∀ (s : State) (r : Req) (j : Fin 8) (b : Job), s.asked r j b → b.state = .running ∨ b.state = .anchorWait →
    (∀ (n x3 x2 x1 x0 : Byte), r.body = [n, x3, x2, x1, x0] →
      if 15 < n.toNat then exec (.krev r) s = s.answered .krev r .badField []
      else ∃ i, parseRevoke r.body = some (i, natOfBytes [x3, x2, x1, x0]) ∧ i.val = n.toNat) ∧
    ∀ i id, parseRevoke r.body = some (i, id) → b.desc? i = none →
      exec (.krev r) s = s.answered .krev r .badTrack []) ∧
  ∀ (s : State) (r : Req) (j : Fin 8) (b : Job) (i : Fin 16) (id : Nat) (t : DescTrack), s.asked r j b →
    parseRevoke r.body = some (i, id) → b.desc? i = some t →
    (b.state = .running →
      ((∃ c ∈ t.placed, c.id = id) → exec (.krev r) s = s.answered .krev r .tooLate []) ∧
      ((∀ c ∈ t.placed, c.id ≠ id) → (∀ c ∈ t.pending, c.id ≠ id) → exec (.krev r) s = s.answered .krev r .notFound []) ∧
      ((∀ c ∈ t.placed, c.id ≠ id) → ∀ h rest, t.pending = h :: rest →
        let b1 := (b.setTrack i (.desc { t with pending := t.pending.filter fun c => c.id != id })).retireGaps
        (h.id = id → exec (.krev r) s = (s.tested j b (b1.search i)).answered .krev r .ok []) ∧
        (h.id ≠ id → (∃ c ∈ rest, c.id = id) →
          exec (.krev r) s = (s.setJob j b1).answered .krev r .ok []))) ∧
    (b.state = .anchorWait →
      if b.untimed.any (Untimed.isClipOf i id) then
        exec (.krev r) s =
          (s.setJob j { b with untimed := b.untimed.filter fun u => !u.isClipOf i id }).answered .krev r .ok []
      else exec (.krev r) s = s.answered .krev r .notFound [])

/-! ### Levels and gaps -/

/-- An LVL at a RUNNING job with a window count not from 1 to 32, or a length other than 5 + 3m, is refused with
BAD_FIELD (R112, R196). Another divides its windows and the hole before them into seen, filled, lost, taken and beyond
the span: the windows below the expected one are seen, those whose first sample lies at or beyond the span end sample
are beyond, whether of the hole or measured, and the rest are processed. It fills no more than the hole limit and
nothing before levels are seen, loses none while the limit is not reached, moves the horizon by the windows processed,
and keeps the last window's match vector (R112 to R116). Each window goes through the detector in window order: the
filled ones with the last match vector under the sample mask, then the lost ones as loud with the sample mask, neither
mixed, then the measured ones with their own vector and mixed property; LEVEL_FILLED and LEVEL_LOST are counted once
each. Then, when a window was processed, every DESC track is searched (R116), and where a settled point has moved the
Segmenter tests readiness (R67, R157). A filled window without a last match vector, which only a made-up context has,
takes vector 0 (assumption 36). That a window with no masked vector before it counts as changed (assumption 29), and
that the Segmenter alone is tested then, and only where the value of a settled point has changed (assumption 33), is the
model's reading. The count beyond the span is answered in four bytes where it fits them; the statement says nothing of
the value where it does not (assumption 14). -/
def Obligations.LvlProcessesWindows : Prop :=
  (∀ (s : State) (r : Req) (j : Fin 8) (b : Job), s.asked r j b → b.state = .running →
    let m := field r.body 4 1
    let valid := 1 ≤ m ∧ m ≤ 32 ∧ r.body.length = 5 + 3 * m
    (¬valid → exec (.lvl r) s = s.answered .lvl r .badField []) ∧
    (valid → ∃ f : LvlFields, parseLvl r.body = some f ∧ f.first = field r.body 0 4 ∧ f.windows.length = m ∧
      ∀ k, k < m → f.windows[k]? = some
        ⟨field r.body (5 + 3 * k) 1, field r.body (6 + 3 * k) 1, field r.body (7 + 3 * k) 1⟩)) ∧
  ∀ (s : State) (r : Req) (j : Fin 8) (b : Job) (f : LvlFields), s.asked r j b → b.state = .running →
    parseLvl r.body = some f →
    let e := b.cls.horizon / 960
    let m := f.windows.length
    let z := (b.tb.firstSample b.tb.span + 959) / 960
    (∀ k, k < z ↔ 960 * k < b.tb.firstSample b.tb.span) ∧
    ∃ (n : LvlSplit) (b' : Job) (fields : List Byte),
      exec (.lvl r) s = (s.tested j b b').answered .lvl r
        (if 0 < n.beyond then .clamped else .ok) fields ∧
      n.seen + n.taken + n.beyond + n.filled + n.lost = m + (f.first - e) ∧ n.seen = min m (e - f.first) ∧
      n.taken = min (f.first + m) z - max f.first e ∧ n.filled + n.lost = min f.first z - e ∧
      (let process := fun (w : Nat) (vector : Byte) (mixed : Bool) (c : Job) =>
        let masked := vector &&& c.det.debounceMask
        let d := c.detect w (vector.getLsbD c.det.speech) (decide (c.cls.prevMasked ≠ some masked)) mixed
        { d with cls := ⟨960 * (w + 1), c.cls.levelsSeen, some vector, some masked⟩ }
       let count := fun (m kind : Nat) (c : Job) =>
        if 0 < m then { c with notices := c.notices.report eventBase kind 1 } else c
       let b1 := count n.filled 5 ((List.range n.filled).foldl
        (fun c k => process (e + k) (c.cls.lastVector.getD 0#8 &&& c.det.sampleMask) false c) b)
       let b2 := count n.lost 6 ((List.range n.lost).foldl
        (fun c k => process (e + n.filled + k) c.det.sampleMask false c) b1)
       let b3 := (List.range n.taken).foldl
        (fun c k =>
          match f.windows[n.seen + k]? with
          | some v =>
            let d := process (max f.first e + k) (c.det.matchVector v) (c.det.isMixed v) c
            { d with cls := { d.cls with levelsSeen := true } }
          | none => c) b2
       b' = if n.filled + n.lost + n.taken = 0 then b else trackNumbers.foldl (fun c i => c.search i) b3) ∧
      n.filled ≤ b.det.holeLimit ∧ (b.cls.levelsSeen = false → n.filled = 0) ∧
      (n.filled < b.det.holeLimit → b.cls.levelsSeen = true → n.lost = 0) ∧
      (n.beyond < 2 ^ 32 → fields = beBytes 4 n.taken ++ beBytes 4 n.seen ++ beBytes 4 n.beyond ++ beBytes 4 n.filled ++
        beBytes 4 n.lost ++ beBytes 4 b'.cls.horizon) ∧
      b'.cls.horizon = (if n.filled + n.lost + n.taken = 0 then b.cls.horizon
        else 960 * (e + n.filled + n.lost + n.taken)) ∧
      (∀ v, 0 < n.taken → f.windows[n.seen + n.taken - 1]? = some v →
        b'.cls.lastVector = some (b.det.matchVector v)) ∧
      b'.cls.levelsSeen = (b.cls.levelsSeen || decide (0 < n.taken)) ∧ b'.w = b.w ∧ b'.state = .running

/-- A window's match vector has bit i set exactly when threshold i is enabled and at least two sub-window levels are
greater than it; where the enabled thresholds rise, its set bits are the lowest enabled ones (R117). The window is loud
when bit s is set, its masked vector is restricted to the debounce mask, and it is mixed when at an enabled threshold
the three sub-windows do not agree (R118). -/
def Obligations.WindowIsClassified : Prop :=
  ∀ (x : DetSettings) (v : Levels), x.thresholds.length = 8 →
    let above := fun i => ([v.v0, v.v1, v.v2].filter fun l => decide (x.thresholds.getD i 0 < l)).length
    let bits := x.matchVector v
    let rising := ∀ m n, m < n → n < 8 → x.sampleMask.getLsbD m = true → x.sampleMask.getLsbD n = true →
      x.thresholds.getD m 0 < x.thresholds.getD n 0
    (∀ i, i < 8 → bits.getLsbD i = (x.sampleMask.getLsbD i && decide (2 ≤ above i))) ∧
    (∀ i, i < 8 → (x.masked bits).getLsbD i = (bits.getLsbD i && x.debounceMask.getLsbD i)) ∧
    (rising → ∀ m n, m < n → n < 8 → x.sampleMask.getLsbD m = true → bits.getLsbD n = true → bits.getLsbD m = true) ∧
    (∀ i, i < 8 → x.speech = i → x.isLoud bits = (x.sampleMask.getLsbD i && decide (2 ≤ above i))) ∧
    (x.isMixed v = true ↔ ∃ i, i < 8 ∧ x.sampleMask.getLsbD i = true ∧ above i ≠ 0 ∧ above i ≠ 3)

/-- The detector by its state, each window quiet or loud (R120 to R124). Quiet in UNSETTLED or SPEECH begins a run in
GAP_WAIT; there quiet continues it, and restarts it where the masked vector has changed, or the window is mixed with
mixed-restart on. At Dg windows a gap opens, backdated to the run's start, recorded with the next number and the run's
mixed count, saturating, while the list holds fewer than 64, else unrecorded; that the number goes on past 4,294,967,295
is the model's choice (assumption 35). Loud in GAP_WAIT leads to SPEECH. In GAP and SPEECH_WAIT quiet leads to GAP, a
mixed window adding to the recorded gap's mixed count, saturating; loud counts to Ds, then the gap closes at the loud
run's start, with Ds = 1 at once. Nothing else of the job changes. Of the list those closed gaps then leave that end at
or before the emitted-through sample and every pending clip's desired start, and no other (R126). The gaps stay in
rising order (R125). -/
def Obligations.GapOpensAndCloses : Prop :=
  (∀ (b : Job) (w : Nat) (loud changed mixed : Bool),
    let b' := b.detect w loud changed mixed
    let notices := if b.gd.state = .unsettled then b.notices.report eventBase 4 1 else b.notices
    let one := if mixed then 1 else 0
    let quietRun := fun count start runMixed =>
      if b.det.gapDebounce ≤ count then
        b'.gd.state = .gap ∧ b'.gd.quietStart = none ∧
        if b.gaps.length < 64 then
          b'.gd.recorded = true ∧ b'.gd.nextGap = b.gd.nextGap + 1 ∧ b'.notices = notices.report eventBase 7 1 ∧
          b'.gaps = b.gaps ++ [⟨b.gd.nextGap, 960 * start, none, min 65535 runMixed, 0⟩]
        else
          b'.gd.recorded = false ∧ b'.gd.nextGap = b.gd.nextGap ∧ b'.notices = notices.report eventBase 9 1 ∧
          b'.gaps = b.gaps
      else
        b'.gd.state = .gapWait ∧ b'.gd.quietCount = count ∧ b'.gd.quietStart = some start ∧
        b'.gd.runMixed = runMixed ∧ b'.gd.nextGap = b.gd.nextGap ∧ b'.notices = notices ∧ b'.gaps = b.gaps
    let toSpeech :=
      b'.gd.state = .speech ∧ b'.gd.quietStart = none ∧ b'.gd.loudStart = none ∧ b'.gd.recorded = false ∧
      b'.gd.nextGap = b.gd.nextGap
    let loudRun := fun count start =>
      if b.det.speechDebounce ≤ count then
        toSpeech ∧
        (b.gd.recorded = false → b'.gaps = b.gaps ∧ b'.notices = b.notices) ∧
        (b.gd.recorded = true → b'.notices = b.notices.report eventBase 8 1 ∧
          ∀ pre g, b.gaps = pre ++ [g] → ∀ h, h ∈ b'.gaps ↔ (h ∈ pre ∨ h = { g with endS := some (960 * start) }) ∧
            ¬∃ e, h.endS = some e ∧ e ≤ b.emittedSample ∧ ∀ i t, b.desc? i = some t → ∀ c ∈ t.pending, e ≤ c.d)
      else
        b'.gd = { b.gd with state := .speechWait, loudCount := count, loudStart := some start } ∧ b'.gaps = b.gaps ∧
        b'.notices = b.notices
    let absorbed :=
      b'.notices = b.notices ∧ ((mixed = false ∨ b.gd.recorded = false) → b'.gaps = b.gaps) ∧
      (mixed = true → b.gd.recorded = true → ∀ pre g, b.gaps = pre ++ [g] →
        b'.gaps = pre ++ [{ g with mixed := min 65535 (g.mixed + 1) }])
    (b.gd.state = .unsettled ∨ b.gd.state = .speech →
      if loud then toSpeech ∧ b'.gaps = b.gaps ∧ b'.notices = notices else quietRun 1 w one) ∧
    (b.gd.state = .gapWait →
      (loud = true → toSpeech ∧ b'.gaps = b.gaps ∧ b'.notices = notices) ∧
      (loud = false → changed = true ∨ (mixed = true ∧ b.det.mixedRestart = true) → quietRun 1 w one) ∧
      ∀ n, b.gd.quietStart = some n → loud = false → changed = false → (mixed = false ∨ b.det.mixedRestart = false) →
        quietRun (b.gd.quietCount + 1) n (b.gd.runMixed + one)) ∧
    (b.gd.state = .gap → if loud then loudRun 1 w else b'.gd = b.gd ∧ absorbed) ∧
    (b.gd.state = .speechWait →
      (loud = false → b'.gd = { b.gd with state := .gap, loudCount := 0, loudStart := none } ∧ absorbed) ∧
      ∀ n, b.gd.loudStart = some n → loud = true → loudRun (b.gd.loudCount + 1) n) ∧
    { b' with gd := b.gd, gaps := b.gaps, notices := b.notices } = b) ∧
  ∀ (b : Job) (w : Nat) (loud changed mixed : Bool), b.gapsRise w = true →
    (b.detect w loud changed mixed).gapsRise (w + 1) = true

/-- ADV at a RUNNING job: below W it is refused with BEHIND, otherwise W becomes the target or N, the tails are tested,
the Segmenter and the scheduler are run, and the reply carries the new W; a target beyond N is answered CLAMPED. The job
stays RUNNING, and no other slot changes (R15, R155). The next segment is ready in RUNNING when W is at or beyond its
end frame and every DESC track is settled to its end sample; in FINISHING the same without the watermark terms, and the
last segment when no clip is pending (R65, R66, R157). In no other state is a segment ready (R67). On an enabled lane
that is not closed a batch in RUNNING carries the frames emittable at W, at most 128, once they are 32, in FINISHING up
to 128 of those before E, and none in another state (R93, R104); the lane closes in FINISHING when no record is in
flight and every frame before E is placed: captions WAITING or LOADING are skipped and counted and examined for
retirement, and a CLOSING record clears each displayed caption, or without one the lane is closed at once (R105). An
emission begins when none is in flight and the segment is ready, with its index, its frames and its records decided; its
next record, like a LANE record, is placed while more than 8 entries are free and no claimant waits, and otherwise
waits; then OUTPUT_STALLED is counted, unless the job's source was active already (R67, R68, R69, R94, R95, R182, R190).
That the Segmenter comes before the scheduler is the model's choice (assumption 7), and so is the tail test of an ADV
that leaves W (assumption 53); that the next emission's wait is counted again is its reading (assumption 11). -/
def Obligations.AdvMovesWatermark : Prop :=
  (∀ (s : State) (r : Req) (j : Fin 8) (b : Job) (w x : Nat), s.asked r j b → b.state = .running → b.w = some w →
    x < 2 ^ 32 → r.body = beBytes 4 x →
    if x < w then exec (.adv r) s = s.answered .adv r .behind (beBytes 4 w)
    else
      let b1 := { b with w := some (min x b.tb.span) }.testTails
      let u := ((s.setJob j b1).pumpSegments j pumpFuel).pumpLane j pumpFuel
      exec (.adv r) s = u.answered .adv r (if b.tb.span < x then .clamped else .ok) (beBytes 4 (min x b.tb.span)) ∧
      b1.w = some (min x b.tb.span) ∧ b1.seg = b.seg ∧ b1.lane = b.lane ∧
      (∃ b2, u.job? j = some b2 ∧ b2.w = some (min x b.tb.span) ∧ b2.state = .running) ∧
      ∀ k, k ≠ j → u.slot k = s.slot k) ∧
  ∀ b : Job,
    let full := (b.seg.next + 1) * b.segLen
    let settled := fun m : Nat => ∀ i t, b.desc? i = some t →
      (∀ p, t.tailState = .tentative → t.prev = some p → m ≤ p.endS) ∧
      ∀ k, t.pending.head? = some k → m ≤ k.d - t.duck.rampDown
    (∀ w, b.state = .running → b.e = none → b.w = some w →
      (b.segmentReady = true ↔ full ≤ w ∧ settled (b.tb.firstSample full) ∧
        ∀ i t, b.desc? i = some t → b.tb.firstSample full ≤ b.tb.firstSample w - t.duck.rampDown)) ∧
    (∀ e, b.state = .finishing → b.e = some e →
      (b.segmentReady = true ↔ b.seg.emitted < min full e ∧
        if e ≤ full then ∀ i t, b.desc? i = some t → t.pending = [] else settled (b.tb.firstSample full))) ∧
    (b.state ≠ .running → b.state ≠ .finishing → b.segmentReady = false) ∧
    (b.laneSet.enabled = false ∨ b.lane.closed = true → b.batchFrames = 0 ∧ b.laneCloses = false) ∧
    (b.laneSet.enabled = true → b.lane.closed = false →
      let n := b.lane.next
      (∀ w, b.state = .running → b.w = some w →
        let count := w + 1 - (n + b.laneSet.lookahead)
        b.batchFrames = if 32 ≤ count then min count 128 else 0) ∧
      (∀ e, b.state = .finishing → b.e = some e → b.batchFrames = min (e - n) 128 ∧
        (b.laneCloses = true ↔ b.lane.flight = none ∧ e ≤ n)) ∧
      (b.state ≠ .running → b.state ≠ .finishing → b.batchFrames = 0)) ∧
    (b.state ≠ .finishing → b.laneCloses = false) ∧
    (∀ (s : State) (j : Fin 8) (k : Nat), s.slot j = .job b → b.lane.wait = false → b.lane.flight = none →
      s.pumpLane j (k + 1) =
        if 0 < b.batchFrames then (s.setJob j (b.beginBatch j b.batchFrames)).pumpLane j k
        else if b.laneCloses then ((s.setJob j (b.closeLane j)).doneTest j).pumpLane j k
        else s) ∧
    (∀ (s : State) (j : Fin 8) (k : Nat), s.slot j = .job b →
      let room := 8 < s.freeEntries ∧ s.anyWaiting = false
      let stall := fun c : Job =>
        if b.seg.wait || b.lane.wait || b.park.any fun p => p.wait then c
        else { c with notices := c.notices.report eventBase 16 1 }
      (b.seg.wait = true → s.pumpSegments j k = s) ∧ (b.lane.wait = true → s.pumpLane j k = s) ∧
      (b.seg.wait = false → b.seg.flight = none →
        s.pumpSegments j (k + 1) =
          if b.segmentReady then
            (s.setJob j { b with
              seg := { b.seg with
                flight := some ⟨b.seg.next, b.seg.next * b.segLen,
                  match b.e with | some e => min full e | none => full, b.segmentRecords j⟩ } }).pumpSegments j k
          else s) ∧
      (∀ fl, b.seg.wait = false → b.seg.flight = some fl →
        s.pumpSegments j (k + 1) =
          if room then (s.placeSegment j).pumpSegments j k
          else s.setJob j (stall { b with seg := { b.seg with wait := true } })) ∧
      (∀ fl rec rest, b.seg.flight = some fl → fl.todo = rec :: rest →
        (s.placeSegment j).store = s.store ++ [outputEntry j rec false] ∧
        ∃ b', (s.placeSegment j).job? j = some b' ∧
          (rest ≠ [] → b' = { b with seg := { b.seg with flight := some { fl with todo := rest } } }) ∧
          (rest = [] → b'.seg = ⟨fl.index + 1, fl.endF, none, false⟩)) ∧
      ∀ fl, b.lane.wait = false → b.lane.flight = some fl →
        s.pumpLane j (k + 1) =
          if room then (s.placeLane j).pumpLane j k
          else s.setJob j (stall { b with lane := { b.lane with wait := true } })) ∧
    (∀ (j : Fin 8) (n : Nat),
      let r := b.laneWork.frames b.laneSet n b.lane.next
      ∃ fl : LaneFlight, b.beginBatch j n = { b with lane := { b.lane with flight := some fl } } ∧ fl.kind = .batch ∧
        fl.frames = n ∧ fl.outcome = ⟨r.2.current, r.2.records, r.2.changes, r.2.late, r.2.skipped⟩ ∧
        fl.record = ⟨0x85#8, jobNumber j, 0#8, BitVec.ofNat 16 b.lane.next,
          [0#8] ++ beBytes 4 b.lane.next ++ beBytes 1 n ++ beBytes 1 b.laneSet.symbols ++
            symbolBytes b.laneSet.parity r.1⟩) ∧
    ∀ j : Fin 8,
      let b' := b.closeLane j
      let unshown := fun c : Cue => c.lane == .waiting || c.lane == .loading
      let shown := [1, 2, 3, 4].filter fun sv => (b.serviceTrack sv).isSome && (b.lane.service sv).displayed.isSome
      let slots := b.laneSet.symbols / 2
      let n := (shown.length + slots - 1) / slots
      (∀ i t, b.text? i = some t → b'.text? i = some { t with
        cues := (t.cues.map fun c => if unshown c then { c with lane := .skipped } else c).filter fun c =>
          (t.segOut && decide (b.seg.emitted < c.endF)) ||
            (b.laneSet.enabled && t.service != 0 && c.lane != .done && c.lane != .skipped) }) ∧
      b'.notices = b.notices.report eventBase 2
        (total (b.textTracks.map fun p => (p.2.cues.filter unshown).length)) ∧
      b'.lane.services = b.lane.services.map (fun v => { v with loading := none }) ∧ b'.lane.next = b.lane.next ∧
      (shown = [] → b'.lane.closed = true ∧ b'.lane.flight = b.lane.flight) ∧
      (shown ≠ [] → b'.lane.closed = b.lane.closed ∧ ∃ fl : LaneFlight, b'.lane.flight = some fl ∧
        fl.kind = .closing ∧ fl.frames = n ∧ fl.outcome.services = List.replicate 4 ⟨none, none⟩ ∧
        (∀ sv ∈ shown, ∀ d, (b.lane.service sv).displayed = some d → ⟨sv, d.id, .done⟩ ∈ fl.outcome.changes) ∧
        fl.record = ⟨0x85#8, jobNumber j, 0#8, BitVec.ofNat 16 b.lane.next,
          [1#8] ++ beBytes 4 b.lane.next ++ beBytes 1 n ++ beBytes 1 b.laneSet.symbols ++
            symbolBytes b.laneSet.parity ((shown.map fun sv => (BitVec.ofNat 8 (0x0F + sv), 0x42#8)) ++
              List.replicate (n * slots - shown.length) (0x00#8, 0x00#8))⟩)

/-! ### Parking and restoring -/

/-- PARK in HELD: a job that needs the FULL form and holds more than 64 cue or clip entries is refused with TOO_LARGE
and its counts; otherwise the latch is discarded and counted, the job takes the park serial, the counter rises, the slot
is PARKING and an unfinished reply stands in the store (R161 to R163). The park's parts are the records of the job's
context bytes in its form under that serial (ContextEntriesReadBack says what they hold): those placed are records of
the store or the one being sent, the others are still to place, in order (R164, R167). They wait where 8 or fewer
entries are free or a claimant waits, and OUTPUT_STALLED is then counted, unless the job's source was active already
(R182, R190). -/
def Obligations.ParkWritesContext : Prop :=
  ∀ (s : State) (r : Req) (j : Fin 8) (b : Job), s.asked r j b → b.state = .held → r.body = [] →
    let full := b.cueCount ≠ 0 ∨ b.clipCount ≠ 0 ∨ b.gaps ≠ [] ∨ ∃ v ∈ b.lane.services, v.displayed ≠ none
    (full → 64 < b.cueCount ∨ 64 < b.clipCount →
      exec (.park r) s = s.answered .park r .tooLarge (beBytes 2 b.cueCount ++ beBytes 2 b.clipCount)) ∧
    (b.cueCount ≤ 64 → b.clipCount ≤ 64 →
      ∃ (t : State) (b' : Job) (p : ParkFlight), exec (.park r) s = .next t ∧ t.parkSerial = s.parkSerial + 1#16 ∧
        t.job? j = some b' ∧ b'.state = .parking ∧ b'.latch = [] ∧ b'.park = some p ∧ p.serial = s.parkSerial ∧
        (p.form = .full ↔ full) ∧
        (∃ placed : List LinkRecord,
          contextRecords j s.parkSerial p.form (contextBytes j s.parkSerial p.form b) = placed ++ p.todo ∧
          p.placed = placed.length ∧ p.parts = placed.length + p.todo.length ∧
          ∀ rec ∈ placed, (∃ x ∈ t.store, x.record = rec) ∨ ∃ x, t.tx = some x ∧ x.entry.record = rec) ∧
        (p.wait = true ↔ p.todo ≠ []) ∧ (p.todo ≠ [] → t.freeEntries ≤ 8 ∨ s.anyWaiting = true) ∧
        b'.notices.counts =
          (if p.todo ≠ [] ∧ b.seg.wait = false ∧ b.lane.wait = false then b.notices.report eventBase 16 1
            else b.notices).counts ∧
        p.discarded = b.latch.length ∧ b'.tracks = b.tracks ∧ b'.gaps = b.gaps ∧
        ∃ e ∈ t.store, e.unfinished = true ∧ e.cls = .reply ∧ e.owner = some j ∧ e.record.tag = r.tag ∧
          e.record.kind = kRPLY)

/-- UNPK: a part 1 with a consistent header begins an assembly in a FREE slot, and one with an inconsistent header, or a
body too short for a header, leaves it FREE; at a RESTORING slot a part the assembly does not expect (one of another
serial, form or number of parts, not next in number, or with the more-parts flag clear before the last or set on it), or
a body too short, ends it with BAD_CONTEXT, the slot FREE. A part taken that is not the last leaves the slot RESTORING
and expects the next, with what it has allocated, nothing before the block is whole; a part whose reading fails ends the
assembly with the reading's status, the slot FREE, and POOL_FULL counts POOL_EXHAUSTED. A last part whose context reads
whole, with its check, and makes a job that keeps all R172 asks (its settings, progress, detector, gap list, cues, lane,
clips, envelopes and form), makes that job HELD with its latch empty, its counts 0 and no emission in flight: every
setting and mark is the block's, each track has its cues, clips and breakpoints in the order read, and the Gap List is
that read. Another last part fails with BAD_CONTEXT (R170 to R174); the items refused are those of
ContextEntriesReadBack, and the pools are what the other slots leave of 4,096 cue entries, 8,192 text blocks and 1,024
clip entries. The model's choices are that this takes in bytes that end inside an item or run on past the last
(assumption 39), the test of the block's serial and form against the header's (37), the refusal of a SHORT context that
names entries (56), which tests are made before the last part (32), what is asked of detector items not in force (38),
that gaps may meet (57), that a displayed caption has its cue's end frame (58), and that what R172 leaves untested is
restored as it stands (45, 49, 54, 55, 59). That a refusal carries no field at a FREE slot that takes no part, and
elsewhere the assembly's serial and the record's part number, all ones where the body has none, is the model's reading
(assumption 13). -/
def Obligations.UnpkRestoresJob : Prop :=
  (∀ (s : State) (r : Req) (j : Fin 8), s.ready = true → slotOf r.job = some j → r.body.length < 5 →
    (s.slot j = .free → exec (.unpk r) s = s.answered .unpk r .badContext []) ∧
    ∀ a, s.slot j = .restoring a →
      exec (.unpk r) s = (s.setSlot j .free).answered .unpk r .badContext (beBytes 2 a.serial.toNat ++ [0xFF#8])) ∧
  ∀ (s : State) (r : Req) (j : Fin 8) (h : CtxHeader), s.ready = true → slotOf r.job = some j →
    parseUnpk r.body = some h →
    let q := requestRecord Kind.unpk.code r
    let expected := fun a : Assembly => h.serial = a.serial.toNat ∧ h.form = (if a.form = .full then 1 else 0) ∧
      h.parts = a.parts ∧ h.part = a.next ∧ (q.more = false ↔ h.part = a.parts)
    let consistent := fun f : Form => h.form = (if f = .full then 1 else 0) ∧ h.part = 1 ∧ 1 ≤ h.parts ∧ h.parts ≤ 64 ∧
      (f = .short → h.parts = 1) ∧ (q.more = true ↔ 1 < h.parts)
    let takenBy := fun a : Assembly =>
      s.slot j = .restoring a ∧ expected a ∨
        s.slot j = .free ∧ ∃ f, consistent f ∧ a = ⟨BitVec.ofNat 16 h.serial, f, h.parts, 1, 0, 0, 0, []⟩
    let failed := fun (a : Assembly) (st : Status) =>
      let t := s.setSlot j .free
      exec (.unpk r) s = (if st = .poolFull then t.alert .poolExhausted else t).answered .unpk r st
        (beBytes 2 a.serial.toNat ++ beBytes 1 h.part)
    s.limits j = ⟨4096 - total (slotNumbers.map fun k => if k = j then 0 else (s.slot k).cueCount),
      8192 - total (slotNumbers.map fun k => if k = j then 0 else (s.slot k).blockCount),
      1024 - total (slotNumbers.map fun k => if k = j then 0 else (s.slot k).clipCount)⟩ ∧
    (∀ f, consistent f → h.begins q.more = some ⟨BitVec.ofNat 16 h.serial, f, h.parts, 1, 0, 0, 0, []⟩) ∧
    (s.slot j = .free → (∀ f, ¬consistent f) → exec (.unpk r) s = s.answered .unpk r .badContext []) ∧
    (∀ a, s.slot j = .restoring a → ¬expected a → failed a .badContext) ∧
    (∀ a, takenBy a → a.next ≠ a.parts →
      let bytes := a.bytes ++ r.body.drop 5
      (bytes.length < 416 →
        exec (.unpk r) s = (s.setSlot j (.restoring { a with next := a.next + 1, bytes := bytes })).answered .unpk r .ok
          (beBytes 2 a.serial.toNat ++ beBytes 1 h.part ++ beBytes 2 a.cues ++ beBytes 2 a.blocks ++
            beBytes 2 a.clips)) ∧
      (∀ st, readContext (s.limits j) a.serial a.form bytes = some (.fail st) → failed a st) ∧
      ∀ rd, readContext (s.limits j) a.serial a.form bytes = some (.stop rd) ∨
          readContext (s.limits j) a.serial a.form bytes = some (.go rd) →
        exec (.unpk r) s = (s.setSlot j (.restoring { a with
            next := a.next + 1, bytes := bytes, cues := rd.cues.length, blocks := rd.blocks,
            clips := rd.clips.length })).answered .unpk r .ok
          (beBytes 2 a.serial.toNat ++ beBytes 1 h.part ++ beBytes 2 rd.cues.length ++ beBytes 2 rd.blocks ++
            beBytes 2 rd.clips.length)) ∧
    (∀ a, takenBy a → a.next = a.parts →
      let chunk := r.body.drop 5
      let bytes := a.bytes ++ chunk.take (chunk.length - 2)
      let read := readContext (s.limits j) a.serial a.form bytes
      (∀ st, read = some (.fail st) → failed a st) ∧
      ((∀ st, read ≠ some (.fail st)) →
        (∀ rd, read = some (.go rd) → 2 ≤ chunk.length → chunk.drop (chunk.length - 2) = checkBytes bytes →
          rd.rest = [] → ¬rd.build.restorable a.form rd.cues rd.clips) →
        failed a .badContext)) ∧
    ∀ a rd bytes, takenBy a → a.next = a.parts →
      a.bytes ++ r.body.drop 5 = bytes ++ checkBytes bytes → 2 ≤ (r.body.drop 5).length →
      readContext (s.limits j) a.serial a.form bytes = some (.go rd) → rd.rest = [] →
      rd.build.restorable a.form rd.cues rd.clips →
      ∃ b : Job, b = rd.build ∧ exec (.unpk r) s = (s.setJob j b).answered .unpk r .ok
          (beBytes 2 a.serial.toNat ++ beBytes 1 a.form.code ++ [5#8] ++ optBytes 4 b.w ++ beBytes 2 b.cueCount ++
            beBytes 2 b.blockCount ++ beBytes 2 b.clipCount ++ beBytes 1 b.gaps.length) ∧
        b.state = .held ∧ b.latch = [] ∧ b.seg.flight = none ∧ b.lane.flight = none ∧ b.park = none ∧
        b.notices.counts = List.replicate 17 0 ∧ b.notices.pending = false ∧ b.e = none ∧ b.gaps = rd.gaps ∧
        { b with tracks := rd.job.tracks, gaps := rd.job.gaps } = rd.job ∧
        (∃ k : Block, readBlock bytes = some k ∧ rd.job = k.job ∧ k.serial = a.serial.toNat ∧ k.form = a.form ∧
          rd.cues.length = k.cues ∧ rd.clips.length = k.clips ∧ rd.gaps.length = k.gaps) ∧
        (∀ i, b.text? i = (rd.job.text? i).map fun t =>
          { t with cues := (rd.cues.filter fun p => p.1 == i).map fun p => p.2 }) ∧
        ∀ i, b.desc? i = (rd.job.desc? i).map fun t =>
          let mine := (rd.clips.filter fun p => p.1 == i).map fun p => p.2
          let before := trackNumbers.filter fun k => (rd.job.desc? k).isSome && decide (k < i)
          { t with
            pending := mine.filter fun c => c.state == .pending
            placed := mine.filter fun c => c.state != .pending
            points := rd.points.getD before.length t.points }

/-! ### Notices -/

/-- NCLR answers the counts named (all of the class for an empty set) and clears the named ones, at a job (a stall whose
source is active reads 1 again, which makes a NOTE pending where the kind is enabled) and at the device; a pending NOTE
stays, and so do its number and whether it waits; a kind of the other class, or undefined, is refused with BAD_FIELD
(R190, R193, R198). -/
def Obligations.NclrReadsAndClears : Prop :=
  ∀ (s : State) (r : Req) (set : KindSet), s.ready = true → r.body = beBytes 4 set.toNat →
    (∀ j b, slotOf r.job = some j → s.slot j = .job b → b.notices.counts.length = 17 →
      (set &&& ~~~eventSet ≠ 0#32 → exec (.nclr r) s = s.answered .nclr r .badField []) ∧
      (set &&& ~~~eventSet = 0#32 →
        let named := if set = 0#32 then eventSet else set
        ∃ b' : Job, exec (.nclr r) s = (s.setJob j b').answered .nclr r .ok
            (beBytes 4 named.toNat ++
              ((List.range 17).filter fun i => named.getLsbD i).map
                fun i => BitVec.ofNat 8 (b.notices.counts.getD i 0)) ∧
          { b' with notices := b.notices } = b ∧ b'.notices.enables = b.notices.enables ∧
          b'.notices.number = b.notices.number ∧ b'.notices.wait = b.notices.wait ∧
          (b'.notices.pending = true ↔ b.notices.pending = true ∨
            set.getLsbD 16 = true ∧ b.stalled = true ∧ b.notices.enables.getLsbD 16 = true) ∧
          ∀ i, i < 17 → b'.notices.counts.getD i 0 =
            if set.getLsbD i then (if i = 16 ∧ b.stalled = true then 1 else 0) else b.notices.counts.getD i 0)) ∧
    (r.job = 0#8 → s.device.counts.length = 6 →
      (set &&& ~~~alertSet ≠ 0#32 → exec (.nclr r) s = s.answered .nclr r .badField []) ∧
      (set &&& ~~~alertSet = 0#32 →
        let named := if set = 0#32 then alertSet else set
        ∃ n : Notices, exec (.nclr r) s = { s with device := n }.answered .nclr r .ok
            (beBytes 4 named.toNat ++
              ((List.range 6).filter fun i => named.getLsbD (24 + i)).map
                fun i => BitVec.ofNat 8 (s.device.counts.getD i 0)) ∧
          n.enables = s.device.enables ∧ n.pending = s.device.pending ∧ n.wait = s.device.wait ∧
          n.number = s.device.number ∧
          ∀ i, i < 6 → n.counts.getD i 0 = if set.getLsbD (24 + i) then 0 else s.device.counts.getD i 0))

/-- NSET replaces a job's enables whole and starts no NOTE; a set with a kind that is no EVENT is refused with
BAD_FIELD. At the device the set of all six alerts is confirmed and any other refused (R194). -/
def Obligations.NsetReplacesEnables : Prop :=
  ∀ (s : State) (r : Req) (set : KindSet), s.ready = true → r.body = beBytes 4 set.toNat →
    (∀ j b, slotOf r.job = some j → s.slot j = .job b →
      if set &&& ~~~eventSet = 0#32 then
        exec (.nset r) s = (s.setJob j { b with notices := { b.notices with enables := set } }).answered .nset r .ok
          (beBytes 4 set.toNat)
      else exec (.nset r) s = s.answered .nset r .badField []) ∧
    (r.job = 0#8 →
      if set = 0x3F000000#32 then exec (.nset r) s = s.answered .nset r .ok (beBytes 4 set.toNat)
      else exec (.nset r) s = s.answered .nset r .badField [])

/-! ### The link -/

/-- DRST with job field 0 and no body resets the part even where the store is full or a PARK reply stands unfinished:
every slot FREE, queue and store empty, framer in HUNT, counts 0, the device served last, the park serial kept, the
record on TXD kept; its reply is the first record of the store (R180, R184). -/
def Obligations.DrstResetsDevice : Prop :=
  ∀ (s : State) (r : Req), s.phase = .run → s.roomDue = false → s.inbound = [] → s.abort = none → r.job = 0#8 →
    r.body = [] →
    ∃ u : State, exec (.drst r) s = u.answered .drst r .ok (beBytes 2 s.parkSerial.toNat) ∧
      (∀ j, u.slot j = .free) ∧ u.inbound = [] ∧ u.store = [] ∧ u.framer = .hunt ∧ u.device = Notices.device ∧
      u.lastClaimant = 8 ∧ u.roomDue = false ∧ u.abort = none ∧ u.parkSerial = s.parkSerial ∧ u.rdyIn = s.rdyIn ∧
      u.rx = s.rx ∧ u.phase = .run ∧ u.tx.map Tx.wire = s.tx.map Tx.wire ∧ u.freeCues = 4096 ∧ u.freeBlocks = 8192 ∧
      u.freeClips = 1024

/-- Every code that is no request's is answered UNKNOWN_KIND, with the kind as received, and changes nothing (R180). A
reply is a record of kind 80h with the request's job field and tag, flags 0, and a body of the request's kind, the
status and the fields (R180, R197); the kinds have the codes of 11.2, the statuses those of 11.3, and the slot states
those of R197. -/
def Obligations.UnknownKindAnswered : Prop :=
  (∀ (s : State) (kind : Byte) (r : Req), requestCodes.contains kind.toNat = false → s.ready = true →
    exec (.unknownKind kind r) s =
      .next (s.place ⟨⟨0x80#8, r.job, 0#8, r.tag, [kind, 32#8]⟩, .reply, none, false, false⟩).after) ∧
  (∀ (k : Kind) (r : Req) (st : Status) (fields : List Byte) (s : State),
    requestRecord k.code r = ⟨k.code, r.job, r.flags, r.tag, r.body⟩ ∧
    s.answered k r st fields = .next ({ s with
      store := s.store ++
        [⟨⟨0x80#8, r.job, 0#8, r.tag, [k.code, st.code] ++ fields⟩, .reply, none, false, false⟩] } : State).after) ∧
  (∀ p ∈ [(Kind.jopn, 0x01#8), (.tdef, 0x02#8), (.lset, 0x03#8), (.dset, 0x04#8), (.duck, 0x05#8), (.jgo, 0x06#8),
      (.anch, 0x07#8), (.hold, 0x08#8), (.rsum, 0x09#8), (.fin, 0x0A#8), (.abrt, 0x0B#8), (.rls, 0x0C#8),
      (.jqry, 0x0D#8), (.gqry, 0x0E#8), (.cue, 0x10#8), (.crev, 0x11#8), (.clip, 0x12#8), (.krev, 0x13#8),
      (.lvl, 0x14#8), (.adv, 0x15#8), (.park, 0x18#8), (.unpk, 0x19#8), (.nclr, 0x1C#8), (.nset, 0x1D#8),
      (.dqry, 0x20#8), (.drst, 0x21#8)], p.1.code = p.2 ∧ Kind.ofCode p.2 = some p.1) ∧
  (∀ code : Byte, Kind.ofCode code = none ↔ requestCodes.contains code.toNat = false) ∧
  (∀ p ∈ [(Status.ok, 0#8), (.clamped, 1#8), (.clipped, 2#8), (.latched, 3#8), (.badState, 16#8), (.badField, 17#8),
      (.badTrack, 18#8), (.noAnchor, 19#8), (.late, 20#8), (.behind, 21#8), (.duplicate, 22#8), (.notFound, 23#8),
      (.quotaFull, 24#8), (.poolFull, 25#8), (.trackFull, 26#8), (.busy, 27#8), (.tooLarge, 28#8), (.badContext, 29#8),
      (.beyondSpan, 30#8), (.aborted, 31#8), (.unknownKind, 32#8), (.tooLate, 33#8)], p.1.code = p.2) ∧
  ∀ b : Job, Slot.code .free = 0 ∧ (∀ a, Slot.code (.restoring a) = 7) ∧
    ∀ p ∈ [(JobState.opened, 1), (.anchorWait, 2), (.running, 3), (.holding, 4), (.held, 5), (.parking, 6),
      (.finishing, 8), (.done, 9)], b.state = p.1 → Slot.code (.job b) = p.2

/-- While dispatch cannot take the head record, a further request waits at the tail of the queue, and one that finds 32
waiting is discarded and counts LINK_OVERRUN (R179, R180). A record may be taken when no ABRT waits and, but for a DRST
that resets, an entry is free and fewer than 8 replies stand or no PARK reply is unfinished (R168, R180). What an event
leaves to dispatch is taken from the head, record by record, each handled whole and its NOTEs placed before the next,
until none is left or the head may not be taken; each is handled as the request of a part with nothing before it is.
That an event's NOTEs come before dispatch and the transmitter after it is the model's reading (assumption 6), and so is
that the reply being sent counts among the replies (assumption 28) and that a DRST which is not well formed waits like
any request (assumption 30). -/
def Obligations.PausedDispatchKeepsRecord : Prop :=
  (∀ (s : State) (rec : LinkRecord),
    let resets := rec.kind = 0x21#8 ∧ rec.job = 0#8 ∧ rec.body = []
    let sent := match s.tx with | some t => if t.holds = true ∧ t.entry.cls = .reply then 1 else 0 | none => 0
    let replies := (s.store.filter fun e => e.cls == .reply).length + sent
    (s.mayTake rec = true ↔ s.abort = none ∧
      (resets ∨ 1 ≤ s.freeEntries ∧ ((∀ e ∈ s.store, e.unfinished = false) ∨ replies < 8)))) ∧
  (∀ (s : State) (n : Nat),
    (s.notesSettled = true → s.settle = (s.drain s.inbound.length).transmitBegin) ∧
    (s.inbound = [] → s.drain n = s) ∧
    ∀ head rest, s.inbound = head :: rest →
      (s.mayTake head = false → s.drain n = s) ∧
      (s.mayTake head = true →
        s.drain (n + 1) = (handle head { s with inbound := rest }).placeNotes.drain n)) ∧
  (∀ (s : State) (k : Kind) (r : Req), s.ready = true →
    exec (requestOf k r) s = .next (handle (requestRecord k.code r) s).placeNotes.transmitBegin) ∧
  ∀ (s : State) (k : Kind) (r : Req) (head : LinkRecord) (rest : List LinkRecord), s.listening →
    s.notesSettled = true → s.inbound = head :: rest → s.mayTake head = false →
    if s.inbound.length < 32 then
      exec (requestOf k r) s = .next { s with inbound := s.inbound ++ [requestRecord k.code r] }.transmitBegin
    else exec (requestOf k r) s = .next (s.alert .overrun).after

/-- A character on RXD moves the framer by the table of R177: in HUNT only A7h begins a record; the seventh header byte
leads to BODY, to CHECK for an empty body, or abandons a record longer than 1,024; the second check byte completes the
record or abandons it with LINK_CHECK; a missing stop bit waits to be judged; nothing is received while RXD is low
(R175, R177, R178). R185 says so of a break alone: that a character is not received after a missing stop bit that is not
judged yet either is the model's (assumptions 4 and 22). -/
def Obligations.CharacterAdvancesFramer : Prop :=
  ∀ (s : State) (b : Byte), s.listening →
    (s.rx ≠ .high → ∀ stop, exec (.characterReceived b stop) s = .next s) ∧
    (s.rx = .high →
      exec (.characterReceived b false) s = .next { s with rx := .stopLow } ∧
      (s.framer = .hunt → exec (.characterReceived b true) s =
        .next (if b = 0xA7#8 then { s with framer := .header [] } else s)) ∧
      (∀ got, s.framer = .header got →
        (got.length < 6 → exec (.characterReceived b true) s = .next { s with framer := .header (got ++ [b]) }) ∧
        (got.length = 6 →
          let len := natOfBytes ((got ++ [b]).drop 5)
          exec (.characterReceived b true) s = .next
            (if 1024 < len then ({ s with framer := .hunt }.alert .length).settle
             else if len = 0 then { s with framer := .check (got ++ [b]) [] none }
             else { s with framer := .body (got ++ [b]) len [] }))) ∧
      (∀ head len got, s.framer = .body head len got → exec (.characterReceived b true) s =
        .next { s with
          framer := if got.length + 1 < len then .body head len (got ++ [b]) else .check head (got ++ [b]) none }) ∧
      (∀ head got, s.framer = .check head got none →
        exec (.characterReceived b true) s = .next { s with framer := .check head got (some b) }) ∧
      ∀ head got a, s.framer = .check head got (some a) → exec (.characterReceived b true) s =
        .next (if crc (head ++ got) = a ++ b then ({ s with framer := .hunt }.enqueue (recordOf head got)).settle
          else ({ s with framer := .hunt }.alert .check).settle))

/-- The timeout abandons a record begun with LINK_TIMEOUT and does nothing in HUNT; a missing stop bit of a record begun
is LINK_FRAMING when RXD returns high before a break, and in HUNT is not counted; RXD returning high ends a break (R178,
R185). An alert counts one more, up to 255, of the device's count of its code, 24 LINK_FRAMING, 25 LINK_LENGTH, 26
LINK_CHECK, 27 LINK_TIMEOUT, 28 LINK_OVERRUN, 29 POOL_EXHAUSTED, makes a NOTE pending where an enabled count leaves 0,
and changes nothing else (R188, R191, R198). -/
def Obligations.LinkErrorsAbandon : Prop :=
  (∀ s : State, s.listening →
    (s.framer = .hunt → exec .linkTimeout s = .next s) ∧
    (s.framer ≠ .hunt → s.rx = .high → exec .linkTimeout s = .next ({ s with framer := .hunt }.alert .timeout).settle) ∧
    (s.rx = .stopLow → s.framer ≠ .hunt →
      exec .rxdReturnsHigh s = .next ({ s with rx := .high, framer := .hunt }.alert .framing).settle) ∧
    (s.framer = .hunt → exec .rxdReturnsHigh s = .next { s with rx := .high }) ∧
    ∀ t, s.rx = .silence t → exec .rxdReturnsHigh s = .next { s with rx := .high }) ∧
  ∀ (s : State) (p : Alert × Nat),
    p ∈ [(Alert.framing, 24), (.length, 25), (.check, 26), (.timeout, 27), (.overrun, 28), (.poolExhausted, 29)] →
    s.device.counts.length = 6 →
    let u := s.alert p.1
    let old := s.device.counts.getD (p.2 - 24) 0
    u.device.counts.length = 6 ∧ u.device.counts.getD (p.2 - 24) 0 = min 255 (old + 1) ∧
    (∀ k, k ≠ p.2 - 24 → u.device.counts.getD k 0 = s.device.counts.getD k 0) ∧
    (u.device.pending = true ↔ s.device.pending = true ∨ old = 0 ∧ s.device.enables.getLsbD p.2 = true) ∧
    { u.device with counts := s.device.counts, pending := s.device.pending } = s.device ∧
    { u with device := s.device } = s

/-- A short break returns the framer to HUNT, counts nothing and touches nothing else; a long break resets the part as
DRST does, once, without a reply (R185, R186). -/
def Obligations.BreaksHuntAndReset : Prop :=
  ∀ s : State, s.listening →
    ((∀ t, s.rx ≠ .silence t) → exec .shortBreak s = .next { s with framer := .hunt, rx := .silence false }) ∧
    (s.rx = .silence true → exec .longBreak s = .next s) ∧
    (s.rx ≠ .silence true → ∃ u : State, exec .longBreak s = .next u ∧ (∀ j, u.slot j = .free) ∧ u.inbound = [] ∧
      u.store = [] ∧ u.framer = .hunt ∧ u.device = Notices.device ∧ u.lastClaimant = 8 ∧ u.abort = none ∧
      u.parkSerial = s.parkSerial ∧ u.rdyIn = s.rdyIn ∧ u.rx = .silence true ∧ u.rdyOut = true ∧
      u.tx.map Tx.wire = s.tx.map Tx.wire)

/-- RDY_OUT is asserted in the running phase exactly while at least 2 of the 32 entries of the inbound queue are free
(R175, R179, R187). RESET_N low cuts off the record being sent and deasserts RDY_OUT; its rise gives the power-on state,
initialising; the end of initialisation begins the running phase and, the queue being empty, asserts RDY_OUT; until then
characters, breaks, timeouts, records and transmissions are ignored (R187). What the rest of the state holds while
RESET_N is low cannot be seen. -/
def Obligations.ResetLinePhases : Prop :=
  ∀ s : State,
    (s.rdyOut = true ↔ s.phase = .run ∧ s.inbound.length + 2 ≤ 32) ∧
    (∃ u, exec .resetNLow s = .next u ∧ u.tx = none ∧ u.rdyOut = false ∧ u.phase = .low) ∧
    (s.phase = .low → ∃ u, exec .resetNRise s = .next u ∧ u.phase = .init ∧ (∀ j, u.slot j = .free) ∧ u.inbound = [] ∧
      u.store = [] ∧ u.tx = none ∧ u.framer = .hunt ∧ u.parkSerial = 0#16 ∧ u.device = Notices.device ∧
      u.lastClaimant = 8 ∧ u.abort = none ∧ u.rdyOut = false ∧ u.rdyIn = s.rdyIn) ∧
    (s.phase = .init → exec .initialisationEnd s = .next { s with phase := .run } ∧
      (s.inbound.length ≤ 30 → { s with phase := .run : State }.rdyOut = true)) ∧
    (s.phase ≠ .run → (∀ k r, exec (requestOf k r) s = .next s) ∧ (∀ kind r, exec (.unknownKind kind r) s = .next s) ∧
      (∀ b stop, exec (.characterReceived b stop) s = .next s) ∧ exec .linkTimeout s = .next s ∧
      exec .shortBreak s = .next s ∧ exec .longBreak s = .next s ∧ exec .rxdReturnsHigh s = .next s ∧
      exec .recordTransmitted s = .next s)

/-- RDY_IN asserted starts an idle transmitter on its choice and leaves a busy one; deasserted it starts nothing. The
choice is the oldest reply unless that is an unfinished PARK reply, then the oldest alert, then the oldest other record,
and the rest of the store keeps its order (R183). -/
def Obligations.ReadyLineStartsTransmitter : Prop :=
  (∀ s : State, s.listening →
    exec (.rdyInChange false) s = .next { s with rdyIn := false } ∧
    (s.tx ≠ none → exec (.rdyInChange true) s = .next { s with rdyIn := true }) ∧
    (s.tx = none → chooseEntry s.store = none → exec (.rdyInChange true) s = .next { s with rdyIn := true }) ∧
    ∀ e rest, s.tx = none → chooseEntry s.store = some (e, rest) →
      exec (.rdyInChange true) s =
        .next { s with rdyIn := true, store := rest, tx := some ⟨e, true, e.record.wire⟩ }) ∧
  ∀ store : List OutEntry,
    let held := ∀ x, store.find? (fun e => e.cls == .reply) = some x → x.unfinished = true
    (chooseEntry store = none ↔ held ∧ ∀ e ∈ store, e.cls = .reply) ∧
    ∀ e rest, chooseEntry store = some (e, rest) →
      ∃ pre post, store = pre ++ e :: post ∧ rest = pre ++ post ∧
        ((e.cls = .reply ∧ e.unfinished = false ∧ ∀ x ∈ pre, x.cls ≠ .reply) ∨
          (held ∧ e.cls = .alert ∧ ∀ x ∈ pre, x.cls ≠ .alert) ∨
          (held ∧ e.cls ≠ .reply ∧ (∀ x ∈ store, x.cls ≠ .alert) ∧ ∀ x ∈ pre, x.cls = .reply))

/-- The end of a transmission frees its entry. Then dispatch resumes with the records that wait in the inbound queue,
and the transmitter goes on, or, when more than 8 entries are free and a claimant waits, room is due to it; that the
placing is then a command of its own is the model's (assumption 5), and that dispatch comes before the transmitter its
reading (assumption 6). So it is after a reply, an alert, a NOTE of a job and a record that a device reset had left on
the line (R180, R183, R184). When the record was part n of a park, the PARK reply is finished with OK in place and the
slot is FREE (R168, R182, R183). When it was an output record of a FINISHING job whose last segment is emitted, whose
lane is closed or not enabled, whose clips are resolved and of which no other output record is left to send, the job
becomes DONE, counts FINISHED and frees its cues, clips, breakpoints and gaps; otherwise the job stays as it is (R35).
-/
def Obligations.TransmissionEnds : Prop :=
  ∀ (s : State) (t : Tx), s.listening → s.notesSettled = true → s.tx = some t →
    let goOn := fun u : State =>
      if 8 < u.freeEntries ∧ u.anyWaiting = true then { u with roomDue := true }
      else (u.drain u.inbound.length).transmitBegin
    (t.holds = false ∨ t.entry.owner = none ∨ (t.entry.lastPart = false ∧ t.entry.cls ≠ .output) →
      exec .recordTransmitted s = .next (goOn { s with tx := none })) ∧
    (∀ j b p, t.holds = true → t.entry.owner = some j → t.entry.lastPart = true → s.slot j = .job b → b.park = some p →
      ∃ u : State, exec .recordTransmitted s = .next (goOn u) ∧ u.slot j = .free ∧ (∀ k, k ≠ j → u.slot k = s.slot k) ∧
        u.tx = none ∧ u.inbound = s.inbound ∧ u.store.length = s.store.length ∧ u.parkSerial = s.parkSerial ∧
        ∀ (n : Nat) (e : OutEntry), s.store[n]? = some e →
          ∃ e' : OutEntry, u.store[n]? = some e' ∧ e'.cls = e.cls ∧
            (e.unfinished = true → e.owner = some j → e'.unfinished = false ∧
              e'.record.body = e.record.body.take 1 ++ [0#8] ++ beBytes 2 p.serial.toNat ++ beBytes 1 p.form.code ++
                beBytes 1 p.parts ++ beBytes 1 p.discarded) ∧
            (e.unfinished = false → e'.record = e.record)) ∧
    ∀ j b, t.holds = true → t.entry.owner = some j → t.entry.lastPart = false → t.entry.cls = .output →
      s.slot j = .job b → (∀ w, s.abort = some w → w.slot ≠ j) →
      let complete := b.state = .finishing ∧ b.seg.emitted = b.e.getD 0 ∧ b.seg.flight = none ∧
        (b.laneSet.enabled = false ∨ b.lane.closed = true) ∧ (∀ i d, b.desc? i = some d → d.pending = []) ∧
        ∀ e ∈ s.store, e.cls = .output → e.owner ≠ some j
      (¬complete → exec .recordTransmitted s = .next (goOn { s with tx := none })) ∧
      (complete → ∃ (u : State) (b' : Job), exec .recordTransmitted s = .next (goOn u) ∧ u.slot j = .job b' ∧
        u.tx = none ∧ u.inbound = s.inbound ∧ b'.state = .done ∧ b'.gaps = [] ∧ (∀ i d, b'.text? i = some d → d.cues = []) ∧
        (∀ i d, b'.desc? i = some d → d.pending = [] ∧ d.placed = [] ∧ d.points = []) ∧
        b'.notices.counts = (b.notices.report eventBase 15 1).counts ∧ b'.w = b.w ∧ b'.e = b.e ∧ b'.seg = b.seg ∧
        b'.lane = b.lane ∧ b'.cls = b.cls ∧ b'.gd = b.gd ∧ ∀ k, k ≠ j → u.slot k = s.slot k)

/-- The turn is that of the first waiting claimant after the one served last, jobs 1 to 8 and then the device, and of
its first waiting producer after the one served last, in the order Segmenter, Caption Lane Scheduler, Context Engine,
Notice Unit and then the Segmenter again; the device's one producer is the Notice Unit (R182). -/
def Obligations.TurnIsNextInRotation : Prop :=
  let after := fun last : Producer =>
    match last with
    | .segmenter => [Producer.lane, .context, .notice, .segmenter]
    | .lane => [.context, .notice, .segmenter, .lane]
    | .context => [.notice, .segmenter, .lane, .context]
    | .notice => [.segmenter, .lane, .context, .notice]
  ∀ s : State,
    (s.turn = none ↔ ∀ c, s.claimantTurn c = none) ∧
    (∀ c p, s.turn = some (c, p) → s.claimantTurn c = some p ∧
      ∃ k, 1 ≤ k ∧ k ≤ 9 ∧ c.val = (s.lastClaimant.val + k) % 9 ∧
        ∀ m (d : Fin 9), 1 ≤ m → m < k → d.val = (s.lastClaimant.val + m) % 9 → s.claimantTurn d = none) ∧
    (∀ (c : Fin 9) (j : Fin 8), c.val = j.val →
      (∀ b, s.slot j = .job b → s.claimantTurn c = b.turn) ∧
      ((∀ b, s.slot j ≠ .job b) → s.claimantTurn c = none)) ∧
    s.claimantTurn 8 = (if s.device.wait then some .notice else none) ∧
    ∀ b : Job,
      b.waits .segmenter = b.seg.wait ∧ b.waits .lane = b.lane.wait ∧
      b.waits .context = b.park.any (fun p => p.wait) ∧ b.waits .notice = b.notices.wait ∧
      (b.turn = none ↔ ∀ p, b.waits p = false) ∧
      ∀ p, b.turn = some p → b.waits p = true ∧
        ∃ pre post, after b.lastProducer = pre ++ p :: post ∧ ∀ q ∈ pre, b.waits q = false

/-- With room due to it, a waiting segment record, LANE record or CTXP part is placed at the tail of the store: the
emission goes on or completes, a batch or closing record completes and a HOLDING job with nothing left in flight becomes
HELD, reset frames end the ABRT with its reply and the slot FREE, the park's next part follows; the claimant and
producer are the ones served last (R30, R69, R95, R105, R106, R167, R182). A completed emission frees the cues that need
no segment and no lane any more (R60), the resolved clips and the breakpoints behind it (R158), and the closed gaps
behind it and every pending clip (R126). A batch or closing record gives services and captions the lane state it
decided, counts its late SHOWs and its skips, and the captions DONE or SKIPPED are freed when no segment needs them
(R96). That the placing is a command of its own is the model's (assumption 5), and that a segment in flight at FIN which
ends at E counts as the last is its reading (assumption 27). -/
def Obligations.WaitingOutputIsPlaced : Prop :=
  ∀ (s : State) (j : Fin 8) (b : Job),
    (∀ fl rec rest, s.dueTo j .segmenter b → b.seg.flight = some fl → fl.todo = rec :: rest →
      ∃ u : State, exec .segmentRecordPlace s = .next { u.pumpSegments j pumpFuel with roomDue := false }.settle ∧
        u.store = s.store ++ [outputEntry j rec false] ∧ u.lastClaimant.val = j.val ∧
        ∃ b', u.job? j = some b' ∧ b'.lastProducer = .segmenter ∧
          (rest ≠ [] → b'.seg.flight = some { fl with todo := rest } ∧ b'.seg.emitted = b.seg.emitted) ∧
          (rest = [] →
            let a := b.tb.firstSample fl.startF
            let m := b.tb.firstSample fl.endF
            let held := b.state == .holding && b.lane.flight.isNone
            b'.seg.flight = none ∧ b'.seg.wait = false ∧ b'.seg.emitted = fl.endF ∧ b'.seg.next = fl.index + 1 ∧
            b'.state = (if held then .held else b.state) ∧
            b'.notices = (if held then b.notices.report eventBase 14 1 else b.notices) ∧
            (∀ i t, b.text? i = some t → b'.text? i = some { t with
              cues := t.cues.filter fun c => (t.segOut && decide (fl.endF < c.endF)) ||
                (b.laneSet.enabled && t.service != 0 && c.lane != .done && c.lane != .skipped) }) ∧
            (∀ i t, b.desc? i = some t → ∃ t', b'.desc? i = some t' ∧ t'.pending = t.pending ∧ t'.prev = t.prev ∧
              t'.placed = t.placed.filter (fun c =>
                !((c.state == .dropped &&
                    (decide (a ≤ c.d ∧ c.d < m) || (b.e == some fl.endF && decide (m ≤ c.d)))) ||
                  ((c.state == .placed || c.state == .overlaid) && c.release.any fun r => decide (r < m)))) ∧
              ∃ gone : List Breakpoint, t.points = gone ++ t'.points ∧ (∀ p ∈ gone, p.pos < m) ∧
                (∀ p, t'.points.head? = some p → m ≤ p.pos) ∧ t'.base = gone.getLast?.getD t.base) ∧
            ∀ g, g ∈ b'.gaps ↔ g ∈ b.gaps ∧
              ¬∃ x, g.endS = some x ∧ x ≤ m ∧ ∀ i t, b.desc? i = some t → ∀ c ∈ t.pending, x ≤ c.d)) ∧
    (∀ fl c, s.dueTo j .lane b → b.lane.flight = some fl → (∀ w, s.abort = some w → w.slot ≠ j) →
      (c = Instr.laneBatchPlace ∧ fl.kind = .batch) ∨ (c = Instr.closingFramesPlace ∧ fl.kind = .closing) →
      ∃ u : State, exec c s = .next { u.pumpLane j pumpFuel with roomDue := false }.settle ∧
        u.store = s.store ++ [outputEntry j fl.record false] ∧ u.lastClaimant.val = j.val ∧
        ∃ b', u.job? j = some b' ∧ b'.lastProducer = .lane ∧ b'.lane.flight = none ∧ b'.lane.wait = false ∧
          b'.lane.next = b.lane.next + fl.frames ∧ b'.lane.current = fl.outcome.current ∧
          b'.lane.services = fl.outcome.services ∧ b'.seg = b.seg ∧ b'.gaps = b.gaps ∧
          (∀ i, b'.desc? i = b.desc? i) ∧
          (∀ i t, b.text? i = some t →
            let mine := fl.outcome.changes.filter fun x => (b.serviceTrack x.service).any fun p => p.1 == i
            let marked := mine.foldl (fun cues x => cues.map fun c => if c.id = x.id then { c with lane := x.mark } else c)
              t.cues
            b'.text? i = some { t with
              cues := marked.filter fun c => (t.segOut && decide (b.seg.emitted < c.endF)) ||
                (b.laneSet.enabled && t.service != 0 && c.lane != .done && c.lane != .skipped) }) ∧
          (let held := b.state == .holding && b.seg.flight.isNone
           let n := (b.notices.report eventBase 1 fl.outcome.late).report eventBase 2 fl.outcome.skipped
           b'.state = (if held then .held else b.state) ∧
           b'.notices = (if held then n.report eventBase 14 1 else n)) ∧
          b'.lane.closed = (b.lane.closed || fl.kind == .closing)) ∧
    (∀ fl w, s.dueTo j .lane b → b.lane.flight = some fl → fl.kind = .reset → s.abort = some w → w.slot = j →
      ∃ u : State, exec .resetFramesPlace s = .next u.settle ∧ u.slot j = .free ∧ u.abort = none ∧ u.roomDue = false ∧
        (∀ k, k ≠ j → u.slot k = s.slot k) ∧ u.lastClaimant.val = j.val ∧
        u.store.map OutEntry.record = s.store.map OutEntry.record ++
          [fl.record, replyRecord w.request .ok (beBytes 1 w.was.code ++ beBytes 1 w.discarded)]) ∧
    ∀ p rec rest, s.dueTo j .context b → b.park = some p → p.todo = rec :: rest →
      ∃ u : State, exec .ctxpPartPlace s = .next { u with roomDue := false }.settle ∧
        u.store = s.store ++ [outputEntry j rec rest.isEmpty] ∧ u.lastClaimant.val = j.val ∧
        ∃ b' p', u.job? j = some b' ∧ b'.lastProducer = .context ∧ b'.park = some p' ∧ p'.todo = rest ∧
          p'.placed = p.placed + 1 ∧ p'.serial = p.serial ∧ b'.state = b.state

/-- With room due to it, a waiting NOTE is placed with an entry for each kind whose count is not 0, in kind order, and
the claimant's note number; the number rises and nothing pends, the counts stay. When every count is 0 it is withdrawn
and no record is placed. At the device it is an ALERT record of job 0 with the alerts' codes 24 to 29, and is withdrawn
the same way (R192, R182, R198). A count rises by the occurrences and stops at 255, and a NOTE becomes pending where the
count of an enabled kind leaves 0, not where the kind is masked, the count already above 0, or a NOTE already pending
(R188, R191). What an event has made pending is placed at once where more than 8 entries are free and no claimant waits,
withdrawn there when every count is 0, and otherwise waits (R182, R191, R192); the jobs come in slot order and then the
device, which is the model's (assumption 8). That a withdrawn NOTE leaves the rotation unchanged, and one placed at once
as well, is the model's (assumptions 9, 10). -/
def Obligations.WaitingNoteIsPlaced : Prop :=
  (∀ (s : State) (j : Fin 8) (b : Job), s.dueTo j .notice b →
    let entries := ((b.notices.counts.zip (List.range b.notices.counts.length)).filter fun p => p.1 != 0).map fun p =>
      [BitVec.ofNat 8 p.2, BitVec.ofNat 8 p.1, if b.notices.enables.getLsbD p.2 then 1#8 else 0#8]
    (entries ≠ [] → ∃ u : State, exec .notePlace s = .next { u with roomDue := false }.settle ∧
      u.store = s.store ++
        [⟨⟨0x81#8, jobNumber j, 0#8, b.notices.number, [0#8, BitVec.ofNat 8 entries.length] ++ entries.flatten⟩, .note,
          some j, false, false⟩] ∧
      ∃ b', u.job? j = some b' ∧ b'.notices.number = b.notices.number + 1#16 ∧ b'.notices.pending = false ∧
        b'.notices.wait = false ∧ b'.notices.counts = b.notices.counts ∧ b'.lastProducer = .notice ∧ b'.state = b.state) ∧
    (entries = [] → ∃ u : State, (exec .notePlace s = .next u ∨ exec .notePlace s = .next u.settle) ∧ u.store = s.store ∧
      u.lastClaimant = s.lastClaimant ∧
      ∃ b', u.job? j = some b' ∧ b'.notices.pending = false ∧ b'.notices.wait = false ∧
        b'.notices.number = b.notices.number)) ∧
  (∀ s : State, s.phase = .run → s.roomDue = true → s.turn = some (8, .notice) →
    let entries := ((s.device.counts.zip (List.range s.device.counts.length)).filter fun p => p.1 != 0).map fun p =>
      [BitVec.ofNat 8 (24 + p.2), BitVec.ofNat 8 p.1, if s.device.enables.getLsbD (24 + p.2) then 1#8 else 0#8]
    (entries ≠ [] → ∃ u : State, exec .notePlace s = .next { u with roomDue := false }.settle ∧
      u.store = s.store ++
        [⟨⟨0x81#8, 0#8, 0#8, s.device.number, [1#8, BitVec.ofNat 8 entries.length] ++ entries.flatten⟩, .alert, none,
          false, false⟩] ∧
      u.device.number = s.device.number + 1#16 ∧ u.device.pending = false ∧ u.device.wait = false ∧
      u.device.counts = s.device.counts ∧ u.lastClaimant = 8) ∧
    (entries = [] → ∃ u : State, (exec .notePlace s = .next u ∨ exec .notePlace s = .next u.settle) ∧ u.store = s.store ∧
      u.lastClaimant = s.lastClaimant ∧ u.device.pending = false ∧ u.device.wait = false ∧
      u.device.number = s.device.number ∧ u.device.counts = s.device.counts ∧ u.slots = s.slots)) ∧
  (∀ (x : Notices) (i n : Nat), i < x.counts.length →
    let y := x.report eventBase i n
    y.counts.length = x.counts.length ∧ y.counts.getD i 0 = min 255 (x.counts.getD i 0 + n) ∧
    (∀ k, k ≠ i → y.counts.getD k 0 = x.counts.getD k 0) ∧ { y with counts := x.counts, pending := x.pending } = x ∧
    (y.pending = true ↔ x.pending = true ∨ x.counts.getD i 0 = 0 ∧ 1 ≤ n ∧ x.enables.getLsbD i = true)) ∧
  (∀ s : State, s.freeEntries = 64 - (s.store.length + if s.tx.any Tx.holds then 1 else 0)) ∧
  (∀ (s : State) (j : Fin 8) (b : Job), s.slot j = .job b →
    let room := 8 < s.freeEntries ∧ s.turn = none
    let entries := ((b.notices.counts.zip (List.range b.notices.counts.length)).filter fun p => p.1 != 0).map fun p =>
      [BitVec.ofNat 8 p.2, BitVec.ofNat 8 p.1, if b.notices.enables.getLsbD p.2 then 1#8 else 0#8]
    (b.notices.pending = false ∨ b.notices.wait = true → s.noteJob j = s) ∧
    (b.notices.pending = true → b.notices.wait = false →
      (¬room → s.noteJob j = s.setJob j { b with notices := { b.notices with wait := true } }) ∧
      (room → entries = [] →
        s.noteJob j = s.setJob j { b with notices := { b.notices with pending := false, wait := false } }) ∧
      (room → entries ≠ [] → s.noteJob j =
        ({ s with store := s.store ++
          [⟨⟨0x81#8, jobNumber j, 0#8, b.notices.number, [0#8, BitVec.ofNat 8 entries.length] ++ entries.flatten⟩,
            .note, some j, false, false⟩] } : State).setJob j
          { b with
            notices := { b.notices with pending := false, wait := false, number := b.notices.number + 1#16 } }))) ∧
  ∀ s : State,
    let room := 8 < s.freeEntries ∧ s.turn = none
    let entries := ((s.device.counts.zip (List.range s.device.counts.length)).filter fun p => p.1 != 0).map fun p =>
      [BitVec.ofNat 8 (24 + p.2), BitVec.ofNat 8 p.1, if s.device.enables.getLsbD (24 + p.2) then 1#8 else 0#8]
    (∀ j, (∀ b, s.slot j ≠ .job b) → s.noteJob j = s) ∧
    s.placeNotes = ([0, 1, 2, 3, 4, 5, 6, 7].foldl State.noteJob s).noteDevice ∧
    (s.device.pending = false ∨ s.device.wait = true → s.noteDevice = s) ∧
    (s.device.pending = true → s.device.wait = false →
      (¬room → s.noteDevice = { s with device := { s.device with wait := true } }) ∧
      (room → entries = [] → s.noteDevice = { s with device := { s.device with pending := false, wait := false } }) ∧
      (room → entries ≠ [] → s.noteDevice =
        { s with
          store := s.store ++ [⟨⟨0x81#8, 0#8, 0#8, s.device.number,
            [1#8, BitVec.ofNat 8 entries.length] ++ entries.flatten⟩, .alert, none, false, false⟩]
          device := { s.device with pending := false, wait := false, number := s.device.number + 1#16 } }))

/-! ### The lane -/

/-- Every frame the arbiter decides fills exactly its slots, whatever the captions, so n frames carry n · P / 2 slots
and their symbols n · P bytes (R84, R98); an emitted byte has the symbol's seven bits, under ODD an odd number of one
bits, under EVEN an even number, under NONE a top bit of 0 (R85). A caption has at most three rows of 40 symbols, the
last of them row 15 at the bottom or the first row 1 at the top; printable text is its own symbols and another character
one substitute (R87, R88); it loads in LOAD, then a ROW and its symbols two by two for each row (R89). In a frame of one
slot a service whose captions alone are in play, one displayed or none, sends its SHOW, its CLEAR, the next step of its
load, with RESUME before text while another service is current, or FILL, and a caption not shown by its end frame is
skipped (R98 to R103). Among several services, and at P = 4, the due SHOW and CLEAR pairs take a frame's slots in
increasing service order, one that finds no slot leaving its service as it was; each slot left is given afresh, to one
step of a candidate's load, and FILL holds the rest (R98 to R103). A batch takes up the services in use in increasing
order, with their tracks' WAITING cues (R83, R90, R95). A loading slot goes to the earliest start frame, then to the
current text service, then to the lowest number (R100). That a restored load which stands at its LOAD step places LOAD
again is the model's choice (assumption 59). -/
def Obligations.LaneFramesFillSlots : Prop :=
  (∀ (x : LaneSettings) (n f : Nat) (y : LaneWork), x.symbols = 2 ∨ x.symbols = 4 →
    (y.frames x n f).1.length = n * (x.symbols / 2) ∧
    (symbolBytes x.parity (y.frames x n f).1).length = n * x.symbols) ∧
  (∀ v : Byte,
    let ones := fun p : Parity => ((List.range 8).filter fun i => (parityByte p v).getLsbD i).length
    (∀ p i, i < 7 → (parityByte p v).getLsbD i = v.getLsbD i) ∧ ones .odd % 2 = 1 ∧ ones .even % 2 = 0 ∧
    (parityByte .none v).getLsbD 7 = false) ∧
  (∀ (x : LaneSettings) (c : Cue),
    let rows := c.rows x
    let n := rows.length
    n ≤ 3 ∧ (∀ r ∈ rows, r.symbols.length ≤ 40 ∧
      ∀ y ∈ r.symbols, 0x20 ≤ y.toNat ∧ y.toNat ≤ 0x7E ∨ y = BitVec.ofNat 8 x.subst) ∧
    rows.map CaptionRow.row = (List.range n).map (fun k => (if c.region = .bottom then 16 - n else 1) + k) ∧
    loadSteps rows = .load :: rows.flatMap (fun r => .row r.row :: textSteps r.symbols) ∧
    loadCost rows = 1 + total (rows.map fun r => 1 + (r.symbols.length + 1) / 2) ∧
    (∀ text, c.captionSource = text → text ≠ [] → text.length ≤ 40 →
      (∀ y ∈ text, 0x20 ≤ y.toNat ∧ y.toNat ≤ 0x7E) →
      rows = [⟨if c.region = .bottom then 15 else 1, text⟩] ∧ c.degraded = false) ∧
    ∀ p q : Byte, c.captionSource = [p, q] → 0xC2 ≤ p.toNat → p.toNat ≤ 0xDF → 0x80 ≤ q.toNat → q.toNat ≤ 0xBF →
      rows = [⟨if c.region = .bottom then 15 else 1, [BitVec.ofNat 8 x.subst]⟩] ∧ c.degraded = true) ∧
  (∀ (a b : Byte) (rest : List Byte), textSteps [] = [] ∧ textSteps [a] = [.text a 0x00#8] ∧
    textSteps (a :: b :: rest) = .text a b :: textSteps rest) ∧
  (∀ (x : LaneSettings) (f current : Nat) (v : ServiceWork), x.symbols = 2 → 1 ≤ v.service → v.service ≤ 4 →
    let r := (⟨current, [v], [], 0, 0⟩ : LaneWork).frame x f
    let sv : Byte := BitVec.ofNat 8 (0x0F + v.service)
    (∀ l, v.loading = some l → l.step = none → l.caption.startF ≤ f → f < l.caption.endF →
      r.1 = [(sv, 0x41#8)] ∧ r.2.late = (if l.caption.startF < f then 1 else 0) ∧
      ⟨v.service, l.caption.id, .shown⟩ ∈ r.2.changes ∧
      (∀ d, v.displayed = some d → ⟨v.service, d.id, .done⟩ ∈ r.2.changes) ∧
      ∃ v', r.2.services = [v'] ∧ v'.displayed = some ⟨l.caption.id, l.caption.endF⟩ ∧ v'.loading = none) ∧
    (∀ l, v.loading = some l → l.caption.endF ≤ f → ⟨v.service, l.caption.id, .skipped⟩ ∈ r.2.changes) ∧
    (∀ c ∈ v.pending, c.endF ≤ f → ⟨v.service, c.id, .skipped⟩ ∈ r.2.changes) ∧
    (∀ d, v.loading = none → v.displayed = some d → d.endF ≤ f →
      r.1 = [(sv, 0x42#8)] ∧ ⟨v.service, d.id, .done⟩ ∈ r.2.changes ∧
      ∃ v', r.2.services = [v'] ∧ v'.displayed = none) ∧
    ((∀ d, v.displayed = some d → f < d.endF) →
      (∀ l n, v.loading = some l → l.step = some n → f < l.caption.endF →
        let next : Option Nat := if n + 1 < l.caption.steps.length then some (n + 1) else none
        (∀ q, l.caption.steps[n]? = some (.row q) → r.1 = [(sv, BitVec.ofNat 8 (0x50 + q))] ∧
          r.2.current = v.service ∧ ∃ v', r.2.services = [v'] ∧ v'.loading = some ⟨l.caption, next⟩) ∧
        ∀ p q, l.caption.steps[n]? = some (.text p q) → r.2.current = v.service ∧
          (current = v.service → r.1 = [(p, q)] ∧
            ∃ v', r.2.services = [v'] ∧ v'.loading = some ⟨l.caption, next⟩) ∧
          (current ≠ v.service → r.1 = [(sv, 0x44#8)] ∧ ∃ v', r.2.services = [v'] ∧ v'.loading = some l)) ∧
      (v.loading = none →
        (∀ c rest, v.pending = c :: rest → f < c.endF → c.startF < f + x.lookahead →
          r.1 = [(sv, 0x40#8)] ∧ r.2.current = v.service ∧ ⟨v.service, c.id, .loading⟩ ∈ r.2.changes ∧
          ∃ v' n, r.2.services = [v'] ∧ v'.loading = some ⟨c, n⟩) ∧
        (v.pending = [] → r.1 = [(0x00#8, 0x00#8)] ∧ r.2.current = current)))) ∧
  (∀ (x : LaneSettings) (f : Nat) (y : LaneWork),
    let slots := x.symbols / 2
    let reached := fun c : Caption => decide (c.endF ≤ f)
    let kept := y.services.map fun v =>
      { v with
        loading := v.loading.filter fun l => !reached l.caption
        pending := v.pending.filter fun c => !reached c }
    let lost := y.services.flatMap fun v =>
      ((v.loading.toList.map LoadWork.caption ++ v.pending).filter reached).map fun c =>
        (⟨v.service, c.id, .skipped⟩ : LaneChange)
    let shows := fun v : ServiceWork => v.loading.any fun l => l.step == none && decide (l.caption.startF ≤ f)
    let due := fun v : ServiceWork => shows v || v.displayed.any fun d => decide (d.endF ≤ f)
    let served := (kept.filter due).take slots
    let pair := fun v : ServiceWork =>
      ((BitVec.ofNat 8 (0x10 + (v.service - 1)), if shows v then 0x41#8 else 0x42#8) : SlotPair)
    let left := fun v : ServiceWork =>
      if shows v then
        { v with displayed := v.loading.map fun l => ⟨l.caption.id, l.caption.endF⟩, loading := none }
      else { v with displayed := none }
    let changes := fun v : ServiceWork =>
      (v.displayed.toList.map fun d => (⟨v.service, d.id, .done⟩ : LaneChange)) ++
        if shows v then v.loading.toList.map fun l => ⟨v.service, l.caption.id, .shown⟩ else []
    ∃ u : LaneWork, u.current = y.current ∧ u.changes = y.changes ++ lost ++ served.flatMap changes ∧
      u.late =
        y.late + (served.filter fun v => shows v && v.loading.any fun l => decide (l.caption.startF < f)).length ∧
      u.skipped = y.skipped + lost.length ∧ u.services.length = kept.length ∧
      (∀ pre v post, kept = pre ++ v :: post → u.services[pre.length]? =
        some (if due v = true ∧ (pre.filter due).length < slots then left v else v)) ∧
      y.frame x f =
        (served.map pair ++ (LaneWork.loadSlots f x.lookahead (slots - served.length) u).1,
          (LaneWork.loadSlots f x.lookahead (slots - served.length) u).2)) ∧
  (∀ (f lookahead n : Nat) (u : LaneWork),
    LaneWork.loadSlots f lookahead 0 u = ([], u) ∧
    (chooseService f lookahead u.current u.services = none →
      LaneWork.loadSlots f lookahead n u = (List.replicate n (0x00#8, 0x00#8), u)) ∧
    ∀ st sv pre v post, chooseService f lookahead u.current u.services = some (st, sv) → u.services = pre ++ v :: post →
      v.service = sv → (∀ w ∈ pre ++ post, w.service ≠ sv) →
      let symbol : Byte := BitVec.ofNat 8 (0x10 + (sv - 1))
      let places := fun (slot : SlotPair) (v' : ServiceWork) (changes : List LaneChange) =>
        let rest := LaneWork.loadSlots f lookahead n
          { u with services := pre ++ v' :: post, current := sv, changes := u.changes ++ changes }
        LaneWork.loadSlots f lookahead (n + 1) u = (slot :: rest.1, rest.2)
      let next := fun (c : Caption) (k : Nat) => if k + 1 < c.steps.length then some (k + 1) else none
      (∀ l k, v.loading = some l → l.step = some k →
        let on := { v with loading := some ⟨l.caption, next l.caption k⟩ }
        (l.caption.steps[k]? = some .load → places (symbol, 0x40#8) on []) ∧
        (∀ q, l.caption.steps[k]? = some (.row q) → places (symbol, BitVec.ofNat 8 (0x50 + q)) on []) ∧
        ∀ p q, l.caption.steps[k]? = some (.text p q) →
          if u.current = sv then places (p, q) on [] else places (symbol, 0x44#8) v []) ∧
      ∀ c rest, v.loading = none → v.pending = c :: rest →
        places (symbol, 0x40#8) { v with loading := some ⟨c, next c 0⟩, pending := rest } [⟨sv, c.id, .loading⟩]) ∧
  (∀ (x : LaneSettings) (n f : Nat) (y : LaneWork),
    let first := y.frame x f
    let rest := first.2.frames x n (f + 1)
    y.frames x 0 f = ([], y) ∧ y.frames x (n + 1) f = (first.1 ++ rest.1, rest.2)) ∧
  (∀ b : Job,
    let inUse := fun (v : ServiceWork) (t : TextTrack) =>
      b.laneSet.enabled = true ∧ (∃ i, b.text? i = some t) ∧ t.service = v.service
    b.laneWork.current = b.lane.current ∧ b.laneWork.changes = [] ∧ b.laneWork.late = 0 ∧ b.laneWork.skipped = 0 ∧
    b.laneWork.services.Pairwise (fun u v => u.service < v.service) ∧
    (∀ i t, b.laneSet.enabled = true → b.text? i = some t → 1 ≤ t.service → t.service ≤ 4 →
      ∃ v ∈ b.laneWork.services, v.service = t.service) ∧
    ∀ v ∈ b.laneWork.services, 1 ≤ v.service ∧ v.service ≤ 4 ∧ v.displayed = (b.lane.service v.service).displayed ∧
      ∃ t, inUse v t ∧ v.pending = (t.cues.filter fun c => c.lane == .waiting).map fun c =>
        ⟨c.id, c.startF, c.endF, loadSteps (c.rows b.laneSet)⟩) ∧
  ∀ (f lookahead current : Nat) (vs : List ServiceWork), vs.Pairwise (fun u v => u.service < v.service) →
    let offers := fun (v : ServiceWork) (c : Caption) =>
      (∃ l, v.loading = some l ∧ l.step ≠ none ∧ l.caption = c) ∨
        v.loading = none ∧ v.pending.head? = some c ∧ c.startF < f + lookahead
    (chooseService f lookahead current vs = none → ∀ v ∈ vs, ∀ c, ¬offers v c) ∧
    ∀ st sv, chooseService f lookahead current vs = some (st, sv) →
      (∃ v ∈ vs, v.service = sv ∧ ∃ c, offers v c ∧ c.startF = st) ∧
      ∀ u ∈ vs, ∀ c, offers u c → st < c.startF ∨ st = c.startF ∧ (sv = current ∨ u.service ≠ current ∧ sv ≤ u.service)
end

