-- ==== Sys2Proof/Laws/Bytes.lean ====
section
/-! SUPPORT. Laws of byte order and of fields of a body (R176). -/

namespace Sys2Proof

@[simp] theorem beBytes_length (k n : Nat) : (beBytes k n).length = k := by
  induction k with
  | zero => rfl
  | succ k ih => simp [beBytes, ih]

theorem natOfBytes_cons (b : Byte) (bs : List Byte) :
    natOfBytes (b :: bs) = b.toNat * 256 ^ bs.length + natOfBytes bs := by
  have aux : ∀ (l : List Byte) (a : Nat),
      l.foldl (fun acc c => acc * 256 + c.toNat) a = a * 256 ^ l.length + natOfBytes l := by
    intro l
    induction l with
    | nil => intro a; simp [natOfBytes]
    | cons c l ih =>
      intro a
      simp only [List.foldl_cons, List.length_cons, natOfBytes]
      rw [ih (a * 256 + c.toNat), ih (0 * 256 + c.toNat)]
      simp [Nat.pow_succ, Nat.add_mul, Nat.mul_assoc, Nat.add_assoc, Nat.mul_comm]
  show (b :: bs).foldl _ 0 = _
  rw [List.foldl_cons, aux]
  simp

/-- A number that fits its bytes is read back. -/
theorem natOfBytes_beBytes (k n : Nat) (h : n < 256 ^ k) : natOfBytes (beBytes k n) = n := by
  have aux : ∀ k n, natOfBytes (beBytes k n) = n % 256 ^ k := by
    intro k
    induction k with
    | zero => intro n; simp [beBytes, natOfBytes, Nat.mod_one]
    | succ k ih =>
      intro n
      rw [beBytes, natOfBytes_cons, ih, beBytes_length, BitVec.toNat_ofNat, Nat.pow_succ 256 k, Nat.mod_mul]
      simp [Nat.mul_comm, Nat.add_comm]
  rw [aux, Nat.mod_eq_of_lt h]

/-- A field that lies beyond a prefix is a field of the rest. -/
theorem field_append_right (xs ys : List Byte) (off len : Nat) (h : xs.length ≤ off) :
    field (xs ++ ys) off len = field ys (off - xs.length) len := by
  simp [field, List.drop_append, List.drop_eq_nil_of_le h]

/-- A field that lies within a prefix is a field of the prefix. -/
theorem field_append_left (xs ys : List Byte) (off len : Nat) (h : off + len ≤ xs.length) :
    field (xs ++ ys) off len = field xs off len := by
  have h1 : off ≤ xs.length := by omega
  have h2 : len ≤ (xs.drop off).length := by simp; omega
  simp only [field]
  rw [List.drop_append_of_le_length h1, List.take_append_of_le_length h2]

/-- A number sent at the head of a body is read there. -/
theorem field_beBytes (k n : Nat) (ys : List Byte) (h : n < 256 ^ k) : field (beBytes k n ++ ys) 0 k = n := by
  rw [field_append_left _ _ _ _ (by simp)]
  have : (beBytes k n).take k = beBytes k n := List.take_of_length_le (by simp)
  simp [field, this, natOfBytes_beBytes k n h]

end Sys2Proof
end

