-- ==== Sys2Proof/Laws/State.lean ====
section
/-! SUPPORT. What each update of State leaves in each field: one lemma per field per update. -/

namespace Sys2Proof.Machine

variable (s : State) (j k : Fin 8) (x : Slot) (b : Job) (e : OutEntry) (r : LinkRecord) (st : Status) (fs : List Byte)
variable (k' : Alert) (l : Bool)

@[simp] theorem setSlot_pending : (s.setSlot j x).pending = s.pending := rfl
@[simp] theorem setSlot_phase : (s.setSlot j x).phase = s.phase := rfl
@[simp] theorem setSlot_rdyIn : (s.setSlot j x).rdyIn = s.rdyIn := rfl
@[simp] theorem setSlot_rx : (s.setSlot j x).rx = s.rx := rfl
@[simp] theorem setSlot_framer : (s.setSlot j x).framer = s.framer := rfl
@[simp] theorem setSlot_inbound : (s.setSlot j x).inbound = s.inbound := rfl
@[simp] theorem setSlot_store : (s.setSlot j x).store = s.store := rfl
@[simp] theorem setSlot_tx : (s.setSlot j x).tx = s.tx := rfl
@[simp] theorem setSlot_lastClaimant : (s.setSlot j x).lastClaimant = s.lastClaimant := rfl
@[simp] theorem setSlot_roomDue : (s.setSlot j x).roomDue = s.roomDue := rfl
@[simp] theorem setSlot_abort : (s.setSlot j x).abort = s.abort := rfl
@[simp] theorem setSlot_parkSerial : (s.setSlot j x).parkSerial = s.parkSerial := rfl
@[simp] theorem setSlot_device : (s.setSlot j x).device = s.device := rfl

@[simp] theorem setJob_pending : (s.setJob j b).pending = s.pending := rfl
@[simp] theorem setJob_phase : (s.setJob j b).phase = s.phase := rfl
@[simp] theorem setJob_rdyIn : (s.setJob j b).rdyIn = s.rdyIn := rfl
@[simp] theorem setJob_rx : (s.setJob j b).rx = s.rx := rfl
@[simp] theorem setJob_framer : (s.setJob j b).framer = s.framer := rfl
@[simp] theorem setJob_inbound : (s.setJob j b).inbound = s.inbound := rfl
@[simp] theorem setJob_store : (s.setJob j b).store = s.store := rfl
@[simp] theorem setJob_tx : (s.setJob j b).tx = s.tx := rfl
@[simp] theorem setJob_lastClaimant : (s.setJob j b).lastClaimant = s.lastClaimant := rfl
@[simp] theorem setJob_roomDue : (s.setJob j b).roomDue = s.roomDue := rfl
@[simp] theorem setJob_abort : (s.setJob j b).abort = s.abort := rfl
@[simp] theorem setJob_parkSerial : (s.setJob j b).parkSerial = s.parkSerial := rfl
@[simp] theorem setJob_device : (s.setJob j b).device = s.device := rfl

@[simp] theorem place_pending : (s.place e).pending = s.pending := rfl
@[simp] theorem place_slots : (s.place e).slots = s.slots := rfl
@[simp] theorem place_phase : (s.place e).phase = s.phase := rfl
@[simp] theorem place_rdyIn : (s.place e).rdyIn = s.rdyIn := rfl
@[simp] theorem place_rx : (s.place e).rx = s.rx := rfl
@[simp] theorem place_framer : (s.place e).framer = s.framer := rfl
@[simp] theorem place_inbound : (s.place e).inbound = s.inbound := rfl
@[simp] theorem place_tx : (s.place e).tx = s.tx := rfl
@[simp] theorem place_lastClaimant : (s.place e).lastClaimant = s.lastClaimant := rfl
@[simp] theorem place_roomDue : (s.place e).roomDue = s.roomDue := rfl
@[simp] theorem place_abort : (s.place e).abort = s.abort := rfl
@[simp] theorem place_parkSerial : (s.place e).parkSerial = s.parkSerial := rfl
@[simp] theorem place_device : (s.place e).device = s.device := rfl

@[simp] theorem reply_pending : (s.reply r st fs).pending = s.pending := rfl
@[simp] theorem reply_slots : (s.reply r st fs).slots = s.slots := rfl
@[simp] theorem reply_phase : (s.reply r st fs).phase = s.phase := rfl
@[simp] theorem reply_rdyIn : (s.reply r st fs).rdyIn = s.rdyIn := rfl
@[simp] theorem reply_rx : (s.reply r st fs).rx = s.rx := rfl
@[simp] theorem reply_framer : (s.reply r st fs).framer = s.framer := rfl
@[simp] theorem reply_inbound : (s.reply r st fs).inbound = s.inbound := rfl
@[simp] theorem reply_tx : (s.reply r st fs).tx = s.tx := rfl
@[simp] theorem reply_lastClaimant : (s.reply r st fs).lastClaimant = s.lastClaimant := rfl
@[simp] theorem reply_roomDue : (s.reply r st fs).roomDue = s.roomDue := rfl
@[simp] theorem reply_abort : (s.reply r st fs).abort = s.abort := rfl
@[simp] theorem reply_parkSerial : (s.reply r st fs).parkSerial = s.parkSerial := rfl
@[simp] theorem reply_device : (s.reply r st fs).device = s.device := rfl

@[simp] theorem alert_pending : (s.alert k').pending = s.pending := rfl
@[simp] theorem alert_slots : (s.alert k').slots = s.slots := rfl
@[simp] theorem alert_phase : (s.alert k').phase = s.phase := rfl
@[simp] theorem alert_rdyIn : (s.alert k').rdyIn = s.rdyIn := rfl
@[simp] theorem alert_rx : (s.alert k').rx = s.rx := rfl
@[simp] theorem alert_framer : (s.alert k').framer = s.framer := rfl
@[simp] theorem alert_inbound : (s.alert k').inbound = s.inbound := rfl
@[simp] theorem alert_store : (s.alert k').store = s.store := rfl
@[simp] theorem alert_tx : (s.alert k').tx = s.tx := rfl
@[simp] theorem alert_lastClaimant : (s.alert k').lastClaimant = s.lastClaimant := rfl
@[simp] theorem alert_roomDue : (s.alert k').roomDue = s.roomDue := rfl
@[simp] theorem alert_abort : (s.alert k').abort = s.abort := rfl
@[simp] theorem alert_parkSerial : (s.alert k').parkSerial = s.parkSerial := rfl

@[simp] theorem freeSlot_pending : (s.freeSlot j).pending = s.pending := rfl
@[simp] theorem freeSlot_phase : (s.freeSlot j).phase = s.phase := rfl
@[simp] theorem freeSlot_rdyIn : (s.freeSlot j).rdyIn = s.rdyIn := rfl
@[simp] theorem freeSlot_rx : (s.freeSlot j).rx = s.rx := rfl
@[simp] theorem freeSlot_framer : (s.freeSlot j).framer = s.framer := rfl
@[simp] theorem freeSlot_inbound : (s.freeSlot j).inbound = s.inbound := rfl
@[simp] theorem freeSlot_lastClaimant : (s.freeSlot j).lastClaimant = s.lastClaimant := rfl
@[simp] theorem freeSlot_roomDue : (s.freeSlot j).roomDue = s.roomDue := rfl
@[simp] theorem freeSlot_abort : (s.freeSlot j).abort = s.abort := rfl
@[simp] theorem freeSlot_parkSerial : (s.freeSlot j).parkSerial = s.parkSerial := rfl
@[simp] theorem freeSlot_device : (s.freeSlot j).device = s.device := rfl

@[simp] theorem finishPark_pending : (s.finishPark j st fs).pending = s.pending := rfl
@[simp] theorem finishPark_slots : (s.finishPark j st fs).slots = s.slots := rfl
@[simp] theorem finishPark_phase : (s.finishPark j st fs).phase = s.phase := rfl
@[simp] theorem finishPark_rdyIn : (s.finishPark j st fs).rdyIn = s.rdyIn := rfl
@[simp] theorem finishPark_rx : (s.finishPark j st fs).rx = s.rx := rfl
@[simp] theorem finishPark_framer : (s.finishPark j st fs).framer = s.framer := rfl
@[simp] theorem finishPark_inbound : (s.finishPark j st fs).inbound = s.inbound := rfl
@[simp] theorem finishPark_tx : (s.finishPark j st fs).tx = s.tx := rfl
@[simp] theorem finishPark_lastClaimant : (s.finishPark j st fs).lastClaimant = s.lastClaimant := rfl
@[simp] theorem finishPark_roomDue : (s.finishPark j st fs).roomDue = s.roomDue := rfl
@[simp] theorem finishPark_abort : (s.finishPark j st fs).abort = s.abort := rfl
@[simp] theorem finishPark_parkSerial : (s.finishPark j st fs).parkSerial = s.parkSerial := rfl
@[simp] theorem finishPark_device : (s.finishPark j st fs).device = s.device := rfl

@[simp] theorem placeOutput_pending : (s.placeOutput j r l).pending = s.pending := rfl
@[simp] theorem placeOutput_slots : (s.placeOutput j r l).slots = s.slots := rfl
@[simp] theorem placeOutput_phase : (s.placeOutput j r l).phase = s.phase := rfl
@[simp] theorem placeOutput_rdyIn : (s.placeOutput j r l).rdyIn = s.rdyIn := rfl
@[simp] theorem placeOutput_rx : (s.placeOutput j r l).rx = s.rx := rfl
@[simp] theorem placeOutput_framer : (s.placeOutput j r l).framer = s.framer := rfl
@[simp] theorem placeOutput_inbound : (s.placeOutput j r l).inbound = s.inbound := rfl
@[simp] theorem placeOutput_tx : (s.placeOutput j r l).tx = s.tx := rfl
@[simp] theorem placeOutput_lastClaimant : (s.placeOutput j r l).lastClaimant = s.lastClaimant := rfl
@[simp] theorem placeOutput_roomDue : (s.placeOutput j r l).roomDue = s.roomDue := rfl
@[simp] theorem placeOutput_abort : (s.placeOutput j r l).abort = s.abort := rfl
@[simp] theorem placeOutput_parkSerial : (s.placeOutput j r l).parkSerial = s.parkSerial := rfl
@[simp] theorem placeOutput_device : (s.placeOutput j r l).device = s.device := rfl

@[simp] theorem place_store : (s.place e).store = s.store ++ [e] := rfl

@[simp] theorem reply_store :
    (s.reply r st fs).store = s.store ++ [⟨replyRecord r st fs, .reply, none, false, false⟩] := rfl

@[simp] theorem placeOutput_store : (s.placeOutput j r l).store = s.store ++ [⟨r, .output, some j, false, l⟩] := rfl

@[simp] theorem alert_device : (s.alert k').device = s.device.report alertBase k'.index 1 := rfl

/-! ### The job table -/

@[simp] theorem slot_setSlot_self : (s.setSlot j x).slot j = x := by
  simp [State.slot, State.setSlot]

theorem slot_setSlot_ne (h : k ≠ j) : (s.setSlot j x).slot k = s.slot k := by
  have h' : j.val ≠ k.val := fun e => h (Fin.ext e.symm)
  simp [State.slot, State.setSlot, Vector.getElem_set_ne, h']

@[simp] theorem slot_setJob_self : (s.setJob j b).slot j = .job b := slot_setSlot_self s j (.job b)

theorem slot_setJob_ne (h : k ≠ j) : (s.setJob j b).slot k = s.slot k := slot_setSlot_ne s j k (.job b) h

@[simp] theorem slot_place : (s.place e).slot k = s.slot k := rfl

@[simp] theorem slot_reply : (s.reply r st fs).slot k = s.slot k := rfl

@[simp] theorem slot_alert : (s.alert k').slot k = s.slot k := rfl

@[simp] theorem slot_placeOutput : (s.placeOutput j r l).slot k = s.slot k := rfl

@[simp] theorem job?_setJob_self : (s.setJob j b).job? j = some b := by
  simp [State.job?]

theorem job?_setJob_ne (h : k ≠ j) : (s.setJob j b).job? k = s.job? k := by
  simp [State.job?, slot_setJob_ne s j k b h]

theorem slot_of_job? {b : Job} (h : s.job? j = some b) : s.slot j = .job b := by
  unfold State.job? at h
  split at h
  · cases h; assumption
  · cases h

theorem job?_of_slot {b : Job} (h : s.slot j = .job b) : s.job? j = some b := by
  simp [State.job?, h]

theorem slot_freeSlot_self : (s.freeSlot j).slot j = .free := by
  simp [State.freeSlot, State.slot, State.setSlot]

theorem slot_freeSlot_ne (h : k ≠ j) : (s.freeSlot j).slot k = s.slot k := by
  have h' : j.val ≠ k.val := fun e => h (Fin.ext e.symm)
  simp [State.freeSlot, State.slot, State.setSlot, Vector.getElem_set_ne, h']

/-- Two updates of one slot are the later one. -/
@[simp] theorem setSlot_setSlot (y : Slot) : (s.setSlot j x).setSlot j y = s.setSlot j y := by
  simp [State.setSlot]

end Sys2Proof.Machine
end

