-- ==== Sys2Proof/Laws/Ops.lean ====
section
/-! SUPPORT. What each shared operation can do, said once: the answer of a request, the rotation, the producers'
loops, dispatch, and the step of a record that is taken at once. -/

namespace Sys2Proof.Machine

/-! ### Requests (R19, R21) -/

theorem slotOf_lt {job : Byte} {j : Fin 8} (h : slotOf job = some j) : job.toNat = j.val + 1 := by
  unfold slotOf at h
  split at h
  · next hj => cases h; simp only; omega
  · cases h

theorem slotOf_eq_none {job : Byte} (h : job.toNat = 0 ∨ 8 < job.toNat) : slotOf job = none := by
  unfold slotOf
  rw [dif_neg (by omega)]

theorem withSlot_of_slot {r : LinkRecord} {s : State} {f : Fin 8 → Result} {j : Fin 8} (h : slotOf r.job = some j) :
    withSlot r s f = f j := by simp [withSlot, h]

theorem withSlot_of_none {r : LinkRecord} {s : State} {f : Fin 8 → Result} (h : slotOf r.job = none) :
    withSlot r s f = refuse .badField s := by simp [withSlot, h]

theorem withJobIn_taken {ok : JobState → Bool} {s : State} {j : Fin 8} {f : Job → Result} {b : Job}
    (h : s.slot j = .job b) (hs : ok b.state = true) : withJobIn ok s j f = f b := by
  simp [withJobIn, h, hs]

/-- A request outside its states is refused and changes nothing (R21). -/
theorem withJobIn_refused {ok : JobState → Bool} {s : State} {j : Fin 8} {f : Job → Result}
    (h : ∀ b, s.slot j = .job b → ok b.state = false) : withJobIn ok s j f = refuse .badState s := by
  unfold withJobIn
  split
  · next b hb => simp [h b hb]
  · rfl

/-! ### The outbound store (R181) -/

/-- A record at the tail takes one entry. -/
@[simp] theorem used_place (e : OutEntry) (s : State) : (s.place e).used = s.used + 1 := by
  simp only [State.used, place_store, place_tx, List.length_append, List.length_cons, List.length_nil]
  omega

theorem used_setSlot (j : Fin 8) (x : Slot) (s : State) : (s.setSlot j x).used = s.used := rfl

theorem used_setJob (j : Fin 8) (b : Job) (s : State) : (s.setJob j b).used = s.used := rfl

theorem freeEntries_setJob (j : Fin 8) (b : Job) (s : State) : (s.setJob j b).freeEntries = s.freeEntries := rfl

/-- Room at once: more than the reserve is free (R181, R182). -/
theorem free_of_roomNow {s : State} (h : s.roomNow = true) : Config.reserve < s.freeEntries := by
  simp [State.roomNow] at h
  exact h.1

/-- Freeing a slot keeps the entries: only their owner goes. -/
theorem used_freeSlot (j : Fin 8) (s : State) : (s.freeSlot j).used = s.used := by
  simp only [State.used, State.freeSlot, State.setSlot, List.length_map]
  cases s.tx <;> rfl

theorem used_finishPark (j : Fin 8) (st : Status) (fs : List Byte) (s : State) :
    (s.finishPark j st fs).used = s.used := by simp [State.used, State.finishPark]

/-! ### The producers' loops (R67, R94, R167): what their steps keep, they keep -/

/-- Whatever beginning an emission, placing a record with room and going to wait keep, the Segmenter's loop keeps. -/
theorem pumpSegments_keeps {P : State → Prop} {j : Fin 8}
    (begins : ∀ s b, P s → s.job? j = some b → P (s.setJob j (b.beginSegment j)))
    (places : ∀ s, P s → s.roomNow = true → P (s.placeSegment j))
    (waits : ∀ s b, P s → s.job? j = some b →
      P (s.setJob j (b.countStall { b with seg := { b.seg with wait := true } }))) :
    ∀ n s, P s → P (s.pumpSegments j n) := by
  intro n
  induction n with
  | zero => intro s h; exact h
  | succ n ih =>
    intro s h
    simp only [State.pumpSegments]
    split
    · exact h
    · next b hb =>
      split
      · exact h
      · split
        · split
          · exact ih _ (begins s b h hb)
          · exact h
        · split
          · next hr => exact ih _ (places s h hr)
          · exact waits s b h hb

/-- The same for the scheduler's loop. -/
theorem pumpLane_keeps {P : State → Prop} {j : Fin 8}
    (begins : ∀ s b, P s → s.job? j = some b → P (s.setJob j (b.beginBatch j b.batchFrames)))
    (closes : ∀ s b, P s → s.job? j = some b → P ((s.setJob j (b.closeLane j)).doneTest j))
    (places : ∀ s, P s → s.roomNow = true → P (s.placeLane j))
    (waits : ∀ s b, P s → s.job? j = some b →
      P (s.setJob j (b.countStall { b with lane := { b.lane with wait := true } }))) :
    ∀ n s, P s → P (s.pumpLane j n) := by
  intro n
  induction n with
  | zero => intro s h; exact h
  | succ n ih =>
    intro s h
    simp only [State.pumpLane]
    split
    · exact h
    · next b hb =>
      split
      · exact h
      · split
        · split
          · exact ih _ (begins s b h hb)
          · split
            · exact ih _ (closes s b h hb)
            · exact h
        · split
          · next hr => exact ih _ (places s h hr)
          · exact waits s b h hb

/-- The same for the Context Engine's loop. -/
theorem pumpParts_keeps {P : State → Prop} {j : Fin 8}
    (places : ∀ s, P s → s.roomNow = true → P (s.placePart j))
    (waits : ∀ s b p, P s → s.job? j = some b → b.park = some p →
      P (s.setJob j (b.countStall { b with park := some { p with wait := true } }))) :
    ∀ n s, P s → P (s.pumpParts j n) := by
  intro n
  induction n with
  | zero => intro s h; exact h
  | succ n ih =>
    intro s h
    simp only [State.pumpParts]
    split
    · exact h
    · next b hb =>
      split
      · exact h
      · next p hp =>
        split
        · exact h
        · split
          · next hr => exact ih _ (places s h hr)
          · exact waits s b p h hb hp

/-- What serving a turn keeps, serving the due room keeps (R182). -/
theorem serveDue_keeps {P : State → Prop}
    (serves : ∀ s c p, P s → s.roomDue = true → s.turn = some (c, p) → P (s.serve c p))
    (none : ∀ s, P s → P { s with roomDue := false }) :
    ∀ n s, P s → P (s.serveDue n) := by
  intro n
  induction n with
  | zero => intro s h; exact h
  | succ n ih =>
    intro s h
    simp only [State.serveDue]
    split
    · next hd =>
      split
      · next c p ht => exact ih _ (serves s c p h hd ht)
      · exact none s h
    · exact h

/-- What taking and answering a record keeps, and what placing NOTEs keeps, dispatch keeps (R180). -/
theorem drain_keeps {P : State → Prop}
    (takes : ∀ s r rest, P s → s.inbound = r :: rest → s.mayTake r = true → P (handle r { s with inbound := rest }))
    (notes : ∀ s, P s → P s.placeNotes) :
    ∀ n s, P s → P (s.drain n) := by
  intro n
  induction n with
  | zero => intro s h; exact h
  | succ n ih =>
    intro s h
    simp only [State.drain]
    split
    · exact h
    · next r rest hin =>
      split
      · next ht => exact ih _ (notes _ (takes s r rest h hin ht))
      · exact h

/-- What a job's NOTE and the device's NOTE keep, placing NOTEs keeps (R192). -/
theorem placeNotes_keeps {P : State → Prop} (jobs : ∀ s j, P s → P (s.noteJob j)) (device : ∀ s, P s → P s.noteDevice)
    (s : State) (h : P s) : P s.placeNotes := by
  have aux : ∀ (l : List (Fin 8)) s, P s → P (l.foldl State.noteJob s) := by
    intro l
    induction l with
    | nil => intro s h; exact h
    | cons j l ih => intro s h; exact ih _ (jobs s j h)
  exact device _ (aux _ _ h)

/-! ### A quiet part -/

/-- No NOTE is placed where every claimant's notices are settled. -/
theorem placeNotes_of_settled {s : State} (h : s.notesSettled = true) : s.placeNotes = s := by
  simp only [State.notesSettled, Bool.and_eq_true] at h
  have hj : ∀ j ∈ slotNumbers, s.noteJob j = s := by
    intro j hm
    have hs := List.all_eq_true.mp h.1 j hm
    unfold State.noteJob
    split
    · next b hb =>
      rw [hb] at hs
      simp only [Notices.settled, Bool.or_eq_true, Bool.not_eq_true'] at hs
      rw [if_neg]
      intro hp
      simp only [Bool.and_eq_true, Bool.not_eq_true'] at hp
      rcases hs with hs | hs <;> simp_all
    · rfl
  have aux : ∀ (l : List (Fin 8)), (∀ j ∈ l, s.noteJob j = s) → l.foldl State.noteJob s = s := by
    intro l
    induction l with
    | nil => intro _; rfl
    | cons j l ih =>
      intro hl
      rw [List.foldl_cons, hl j (by simp)]
      exact ih fun k hk => hl k (by simp [hk])
  have hd := h.2
  simp only [State.placeNotes, aux _ hj, State.noteDevice]
  simp only [Notices.settled, Bool.or_eq_true, Bool.not_eq_true'] at hd
  rw [if_neg]
  intro hp
  simp only [Bool.and_eq_true, Bool.not_eq_true'] at hp
  rcases hd with hd | hd <;> simp_all

/-- With no room due, nothing is placed before a command. -/
theorem flush_of_not_due {s : State} (h : s.roomDue = false) : s.flush = s := by
  simp [State.flush, h]

theorem running_of_run {s : State} {f : State → State} (hp : s.phase = .run) (hd : s.roomDue = false) :
    s.running f = f s := by
  simp [State.running, hp, flush_of_not_due hd]

/-- Before the end of initialisation an event is ignored (R187). -/
theorem running_of_not_run {s : State} {f : State → State} (hp : s.phase ≠ .run) : s.running f = s := by
  simp [State.running, hp]

/-- What `quiet` says. -/
theorem quiet_iff {s : State} : s.quiet = true ↔
    s.phase = .run ∧ s.roomDue = false ∧ s.inbound = [] ∧ s.abort = none ∧ s.notesSettled = true := by
  simp [State.quiet, and_assoc]

/-- What `ready` says. -/
theorem ready_iff {s : State} : s.ready = true ↔
    s.quiet = true ∧ 1 ≤ s.freeEntries ∧ (s.parkUnfinished = false ∨ s.replies < Config.reserve) := by
  simp [State.ready, and_assoc]

/-- A ready part may take any record. -/
theorem mayTake_of_ready {s : State} (h : s.ready = true) (r : LinkRecord) : s.mayTake r = true := by
  obtain ⟨hq, hf, hp⟩ := ready_iff.mp h
  obtain ⟨-, -, -, hab, -⟩ := quiet_iff.mp hq
  rcases hp with hp | hp <;> simp [State.mayTake, hab, hf, hp]

/-- A ready part takes the record at once: it is handled whole, then the NOTEs it started are placed and the
transmitter begins (R179, R180; assumption 6). -/
theorem submit_of_ready {s : State} (h : s.ready = true) (kind : Byte) (r : Req) :
    s.submit kind r = (handle (requestRecord kind r) s).after := by
  obtain ⟨hq, -, -⟩ := ready_iff.mp h
  obtain ⟨hrun, hdue, hin, -, hns⟩ := quiet_iff.mp hq
  have hs : { s with inbound := ([] : List LinkRecord) } = s := by rw [← hin]
  have he : s.enqueue (requestRecord kind r) = { s with inbound := [requestRecord kind r] } := by
    simp [State.enqueue, hin, Config.inboundSize]
  have hn : ({ s with inbound := [requestRecord kind r] } : State).placeNotes =
      { s with inbound := [requestRecord kind r] } := placeNotes_of_settled hns
  have ht : ({ s with inbound := [requestRecord kind r] } : State).mayTake (requestRecord kind r) = true := by
    show s.mayTake (requestRecord kind r) = true
    exact mayTake_of_ready h (requestRecord kind r)
  rw [State.submit, running_of_run hrun hdue]
  simp only [he, State.settle, hn, List.length_cons, List.length_nil, State.drain, ht, hs, if_true, State.after]

/-! ### Reading a context (R171, R199) -/

/-- Before the block is whole nothing is read. -/
theorem readContext_of_lt {x : Limits} {serial : Word16} {f : Form} {bs : List Byte} (h : bs.length < 416) :
    readContext x serial f bs = none := by simp [readContext, h]

/-- A context that is read has a block of its parts' serial and form. -/
theorem readContext_block {x : Limits} {serial : Word16} {f : Form} {bs : List Byte} {r : Reading}
    (h : readContext x serial f bs = some (.go r) ∨ readContext x serial f bs = some (.stop r)) :
    ∃ k, readBlock bs = some k ∧ k.serial = serial.toNat ∧ k.form = f := by
  by_cases hl : bs.length < 416
  · simp [readContext_of_lt hl] at h
  · cases hb : readBlock bs with
    | none => simp [readContext, hl, hb] at h
    | some k =>
      by_cases hk : k.serial ≠ serial.toNat ∨ k.form ≠ f
      · simp [readContext, hl, hb, hk] at h
      · exact ⟨k, rfl, by omega, by_contra fun hf => hk (.inr hf)⟩

/-! ### The rotation's bookkeeping -/

/-- A served claimant keeps the store. -/
@[simp] theorem served_store (c : Fin 9) (p : Producer) (s : State) : (s.served c p).store = s.store := by
  unfold State.served
  split
  · simp only [State.mapJob]; split <;> rfl
  · rfl

end Sys2Proof.Machine
end

