-- ==== Sys2Proof/Laws/Requests.lean ====
section
/-! SUPPORT. Requests taken at once: the meaning each kind's record is handed to, and the request as a command. -/

namespace Sys2Proof.Machine

@[simp] theorem ofCode_code (k : Kind) : Kind.ofCode k.code = some k := by cases k <;> rfl

@[simp] theorem requestRecord_kind (kind : Byte) (r : Req) : (requestRecord kind r).kind = kind := rfl
@[simp] theorem requestRecord_job (kind : Byte) (r : Req) : (requestRecord kind r).job = r.job := rfl
@[simp] theorem requestRecord_flags (kind : Byte) (r : Req) : (requestRecord kind r).flags = r.flags := rfl
@[simp] theorem requestRecord_tag (kind : Byte) (r : Req) : (requestRecord kind r).tag = r.tag := rfl
@[simp] theorem requestRecord_body (kind : Byte) (r : Req) : (requestRecord kind r).body = r.body := rfl

/-! ### The owner of each kind (R180) -/

theorem handle_jopn (r : Req) (s : State) :
    handle (requestRecord Kind.jopn.code r) s =
      answer (requestRecord Kind.jopn.code r) (doJopn (requestRecord Kind.jopn.code r) s) := rfl

theorem handle_tdef (r : Req) (s : State) :
    handle (requestRecord Kind.tdef.code r) s =
      answer (requestRecord Kind.tdef.code r) (doTdef (requestRecord Kind.tdef.code r) s) := rfl

theorem handle_lset (r : Req) (s : State) :
    handle (requestRecord Kind.lset.code r) s =
      answer (requestRecord Kind.lset.code r) (doLset (requestRecord Kind.lset.code r) s) := rfl

theorem handle_dset (r : Req) (s : State) :
    handle (requestRecord Kind.dset.code r) s =
      answer (requestRecord Kind.dset.code r) (doDset (requestRecord Kind.dset.code r) s) := rfl

theorem handle_duck (r : Req) (s : State) :
    handle (requestRecord Kind.duck.code r) s =
      answer (requestRecord Kind.duck.code r) (doDuck (requestRecord Kind.duck.code r) s) := rfl

theorem handle_jgo (r : Req) (s : State) :
    handle (requestRecord Kind.jgo.code r) s =
      answer (requestRecord Kind.jgo.code r) (doJgo (requestRecord Kind.jgo.code r) s) := rfl

theorem handle_anch (r : Req) (s : State) :
    handle (requestRecord Kind.anch.code r) s =
      answer (requestRecord Kind.anch.code r) (doAnch (requestRecord Kind.anch.code r) s) := rfl

theorem handle_hold (r : Req) (s : State) :
    handle (requestRecord Kind.hold.code r) s =
      answer (requestRecord Kind.hold.code r) (doHold (requestRecord Kind.hold.code r) s) := rfl

theorem handle_rsum (r : Req) (s : State) :
    handle (requestRecord Kind.rsum.code r) s =
      answer (requestRecord Kind.rsum.code r) (doRsum (requestRecord Kind.rsum.code r) s) := rfl

theorem handle_fin (r : Req) (s : State) :
    handle (requestRecord Kind.fin.code r) s =
      answer (requestRecord Kind.fin.code r) (doFin (requestRecord Kind.fin.code r) s) := rfl

theorem handle_rls (r : Req) (s : State) :
    handle (requestRecord Kind.rls.code r) s =
      answer (requestRecord Kind.rls.code r) (doRls (requestRecord Kind.rls.code r) s) := rfl

theorem handle_jqry (r : Req) (s : State) :
    handle (requestRecord Kind.jqry.code r) s =
      answer (requestRecord Kind.jqry.code r) (doJqry (requestRecord Kind.jqry.code r) s) := rfl

theorem handle_gqry (r : Req) (s : State) :
    handle (requestRecord Kind.gqry.code r) s =
      answer (requestRecord Kind.gqry.code r) (doGqry (requestRecord Kind.gqry.code r) s) := rfl

theorem handle_dqry (r : Req) (s : State) :
    handle (requestRecord Kind.dqry.code r) s =
      answer (requestRecord Kind.dqry.code r) (doDqry (requestRecord Kind.dqry.code r) s) := rfl

theorem handle_cue (r : Req) (s : State) :
    handle (requestRecord Kind.cue.code r) s =
      answer (requestRecord Kind.cue.code r) (doCue (requestRecord Kind.cue.code r) s) := rfl

theorem handle_crev (r : Req) (s : State) :
    handle (requestRecord Kind.crev.code r) s =
      answer (requestRecord Kind.crev.code r) (doCrev (requestRecord Kind.crev.code r) s) := rfl

theorem handle_clip (r : Req) (s : State) :
    handle (requestRecord Kind.clip.code r) s =
      answer (requestRecord Kind.clip.code r) (doClip (requestRecord Kind.clip.code r) s) := rfl

theorem handle_krev (r : Req) (s : State) :
    handle (requestRecord Kind.krev.code r) s =
      answer (requestRecord Kind.krev.code r) (doKrev (requestRecord Kind.krev.code r) s) := rfl

theorem handle_lvl (r : Req) (s : State) :
    handle (requestRecord Kind.lvl.code r) s =
      answer (requestRecord Kind.lvl.code r) (doLvl (requestRecord Kind.lvl.code r) s) := rfl

theorem handle_adv (r : Req) (s : State) :
    handle (requestRecord Kind.adv.code r) s =
      answer (requestRecord Kind.adv.code r) (doAdv (requestRecord Kind.adv.code r) s) := rfl

theorem handle_unpk (r : Req) (s : State) :
    handle (requestRecord Kind.unpk.code r) s =
      answer (requestRecord Kind.unpk.code r) (doUnpk (requestRecord Kind.unpk.code r) s) := rfl

theorem handle_nclr (r : Req) (s : State) :
    handle (requestRecord Kind.nclr.code r) s =
      answer (requestRecord Kind.nclr.code r) (doNclr (requestRecord Kind.nclr.code r) s) := rfl

theorem handle_nset (r : Req) (s : State) :
    handle (requestRecord Kind.nset.code r) s =
      answer (requestRecord Kind.nset.code r) (doNset (requestRecord Kind.nset.code r) s) := rfl

theorem handle_abrt (r : Req) (s : State) :
    handle (requestRecord Kind.abrt.code r) s = takeAbrt (requestRecord Kind.abrt.code r) s := rfl

theorem handle_park (r : Req) (s : State) :
    handle (requestRecord Kind.park.code r) s = takePark (requestRecord Kind.park.code r) s := rfl

theorem handle_drst (r : Req) (s : State) :
    handle (requestRecord Kind.drst.code r) s = takeDrst (requestRecord Kind.drst.code r) s := rfl

theorem handle_unknown {r : LinkRecord} (h : Kind.ofCode r.kind = none) (s : State) :
    handle r s = answer r (refuse .unknownKind s) := by simp [handle, h]

/-- A request command submits its record. -/
theorem exec_requestOf (k : Kind) (r : Req) (s : State) : exec (requestOf k r) s = .next (s.submit k.code r) := by
  cases k <;> rfl

/-- A ready part handles the request at once. -/
theorem exec_requestOf_ready {s : State} (h : s.ready = true) (k : Kind) (r : Req) :
    exec (requestOf k r) s = .next (handle (requestRecord k.code r) s).after := by
  rw [exec_requestOf, submit_of_ready h]

/-- An answer whose effect, status and fields are known. -/
theorem answered_of_result {k : Kind} {r : Req} {x : Result} {u : State} {st : Status} {fs : List Byte}
    (h : x = ⟨u, st, fs⟩) :
    (Host.Outcome.next (answer (requestRecord k.code r) x).after : Answer) = u.answered k r st fs := by
  rw [h]; rfl

/-- A body of one four-byte field is read back. -/
theorem parseWord_beBytes {n : Nat} (h : n < 2 ^ 32) : parseWord (beBytes 4 n) = some n := by
  have hf : field (beBytes 4 n) 0 4 = n := by
    have := field_beBytes 4 n [] (by simpa using h)
    simpa using this
  simp [parseWord, hf]

@[simp] theorem parseEmpty_nil : parseEmpty [] = some () := rfl

/-! ### The Segmenter's test after a data request (R67) -/

/-- A settled point has moved exactly when that of some DESC track is another (R67). -/
theorem settledMoves_iff (b c : Job) :
    b.settledMoves c = true ↔ ∃ i, (b.desc? i).map b.settled ≠ (c.desc? i).map c.settled := by
  have hall : ∀ i : Fin 16, i ∈ trackNumbers := by decide
  simp [Job.settledMoves, List.any_eq_true, hall]

/-- In a RUNNING job the settled point is the least of the three terms (R157). -/
theorem settled_of_running {b : Job} (h : b.state = .running) (t : DescTrack) :
    b.settled t = some (b.runningPoint t) := by
  simp only [Job.settled, Job.runningPoint, h, Job.ws]
  cases t.pending <;> cases t.prev <;> by_cases ht : t.tailState = .tentative <;> simp [ht, optMin]

/-- What the Segmenter's test after a request of a RUNNING job leaves, where the request left job c (R67). -/
theorem thenPump_eq_tested {s : State} {j : Fin 8} {b c : Job} (hb : b.state = .running) (hc : c.state = .running)
    (st : Status) (fs : List Byte) :
    thenPump j b ⟨s.setJob j c, st, fs⟩ = ⟨s.tested j b c, st, fs⟩ := by
  have hm : b.settledMoves c = true ↔ ∃ i, (b.desc? i).map b.runningPoint ≠ (c.desc? i).map c.runningPoint := by
    rw [settledMoves_iff]
    refine exists_congr fun i => ?_
    rw [funext (settled_of_running hb), funext (settled_of_running hc)]
    cases b.desc? i <;> cases c.desc? i <;> simp
  have hj : (s.setJob j c).job? j = some c := by simp
  simp only [thenPump, hj, Option.any_some, State.tested, hm]
  split <;> rfl

end Sys2Proof.Machine
end

