-- ==== Sys2Proof/Laws/Contexts.lean ====
section
/-! SUPPORT. The whole-context test (R172): what each of its parts tests, and that together they test what
Job.restorable asks. -/

namespace Sys2Proof.Machine

/-! ### Tracks and lists -/

theorem mem_trackNumbers (i : Fin 16) : i ∈ trackNumbers := by revert i; decide

/-- The TEXT tracks of a job are those its track table holds. -/
theorem mem_textTracks {b : Job} {i : Fin 16} {t : TextTrack} : (i, t) ∈ b.textTracks ↔ b.text? i = some t := by
  simp only [Job.textTracks, List.mem_filterMap]
  constructor
  · rintro ⟨k, -, h⟩
    revert h; cases hk : b.text? k <;> simp
    rintro rfl rfl; exact hk
  · intro h; exact ⟨i, mem_trackNumbers i, by simp [h]⟩

/-- The DESC tracks of a job are those its track table holds. -/
theorem mem_descTracks {b : Job} {i : Fin 16} {t : DescTrack} : (i, t) ∈ b.descTracks ↔ b.desc? i = some t := by
  simp only [Job.descTracks, List.mem_filterMap]
  constructor
  · rintro ⟨k, -, h⟩
    revert h; cases hk : b.desc? k <;> simp
    rintro rfl rfl; exact hk
  · intro h; exact ⟨i, mem_trackNumbers i, by simp [h]⟩

/-- A list without repeats. -/
theorem distinct_iff (l : List Nat) : distinct l = true ↔ l.Pairwise (· ≠ ·) := by
  induction l with
  | nil => simp [distinct]
  | cons x xs ih =>
    simp only [distinct, Bool.and_eq_true, ih, List.pairwise_cons, Bool.not_eq_true', List.contains_eq_mem,
      decide_eq_false_iff_not]
    exact and_congr_left fun _ => ⟨fun h a ha e => h (e ▸ ha), fun h hx => h x hx rfl⟩

/-- Under a transitive relation neighbours stand in it exactly when every two in order do. -/
theorem chain_iff {α : Type} (p : α → α → Bool) (hp : ∀ x y z, p x y = true → p y z = true → p x z = true)
    (l : List α) : chain p l = true ↔ l.Pairwise fun x y => p x y = true := by
  induction l with
  | nil => simp [chain]
  | cons x xs ih =>
    cases xs with
    | nil => simp [chain]
    | cons y ys =>
      simp only [chain, Bool.and_eq_true, ih, List.pairwise_cons]
      constructor
      · rintro ⟨h, k, m⟩
        refine ⟨?_, k, m⟩
        intro z hz
        rcases List.mem_cons.1 hz with rfl | hz
        · exact h
        · exact hp _ _ _ h (k z hz)
      · rintro ⟨h, k, m⟩
        exact ⟨h y (by simp), k, m⟩

/-! ### The parts of the test -/

/-- Progress (R172). -/
theorem progressOk_iff (b : Job) : b.progressOk = true ↔ b.progressAgrees := by
  simp only [Job.progressOk, Job.progressAgrees, Bool.and_eq_true, decide_eq_true_eq]
  cases b.laneSet.enabled <;> simp [and_assoc, Bool.or_eq_true, decide_eq_true_eq, Job.spanEnd, Config.window]

/-- The last gap is open. -/
theorem hasOpenGap_iff (b : Job) : b.hasOpenGap = true ↔ ∃ g, b.gaps.getLast? = some g ∧ g.endS = none := by
  unfold Job.hasOpenGap
  split <;> simp_all

/-- Detector (R172). -/
theorem detectorOk_iff (b : Job) : b.detectorOk = true ↔ b.detectorAgrees := by
  simp only [Job.detectorOk, Job.detectorAgrees, Bool.and_eq_true, decide_eq_true_eq, beq_iff_eq, ← hasOpenGap_iff]
  rw [Bool.eq_iff_iff (a := b.gd.quietStart.isSome), Bool.eq_iff_iff (a := b.gd.loudStart.isSome),
    Bool.eq_iff_iff (a := b.hasOpenGap)]
  simp [and_assoc, Option.isSome_iff_ne_none]

theorem total_filterMap {α β : Type} (l : List α) (f : α → Option β) (g : α → β → Nat) :
    total ((l.filterMap fun i => (f i).map fun t => (i, t)).map fun p => g p.1 p.2) =
      total (l.map fun i => (f i).elim 0 (g i)) := by
  induction l with
  | nil => rfl
  | cons x xs ih =>
    cases h : f x <;> simp_all [total]

/-- The live PLACED clips that name a gap, track by track. -/
theorem placedIn_eq (b : Job) (n : Nat) : b.placedIn n =
    total (trackNumbers.map fun i => ((b.desc? i).elim [] fun t =>
      t.placed.filter fun c => c.state == .placed && c.gap == some n).length) := by
  have h := total_filterMap trackNumbers b.desc? fun _ t =>
    (t.placed.filter fun c => c.state == .placed && c.gap == some n).length
  refine h.trans ?_
  congr 1
  refine List.map_congr_left fun i _ => ?_
  cases b.desc? i <;> rfl

/-- Gap List (R172). -/
theorem gapsOk_iff (b : Job) : b.gapsOk = true ↔ b.gapListAgrees := by
  have hc := chain_iff gapsInOrder (by
    intro x y z h k
    simp only [gapsInOrder, Bool.and_eq_true, decide_eq_true_eq] at *
    cases hx : x.endS <;> simp_all
    omega) b.gaps
  simp only [Job.gapsOk, Job.gapListAgrees, Bool.and_eq_true, decide_eq_true_eq, hc, List.all_eq_true, ← placedIn_eq,
    and_assoc]
  refine and_congr_right fun _ => and_congr_left fun _ => ?_
  rw [iff_iff_eq]; congr 1; funext x y
  simp only [gapsInOrder, Bool.and_eq_true, decide_eq_true_eq, eq_iff_iff, and_assoc]
  cases x.endS <;> simp

/-- A test of every TEXT track. -/
theorem textTracks_all_iff {b : Job} {p : Fin 16 × TextTrack → Bool} :
    b.textTracks.all p = true ↔ ∀ i t, b.text? i = some t → p (i, t) = true := by
  simp only [List.all_eq_true, Prod.forall, mem_textTracks]

/-- A test of every DESC track. -/
theorem descTracks_all_iff {b : Job} {p : Fin 16 × DescTrack → Bool} :
    b.descTracks.all p = true ↔ ∀ i t, b.desc? i = some t → p (i, t) = true := by
  simp only [List.all_eq_true, Prod.forall, mem_descTracks]

theorem distinct_map {α : Type} (f : α → Nat) (l : List α) :
    distinct (l.map f) = true ↔ l.Pairwise fun x y => f x ≠ f y := by
  rw [distinct_iff, List.pairwise_map]

/-- Cues (R172). -/
theorem cuesOk_iff (b : Job) (items : List (Fin 16 × Cue)) : b.cuesOk items = true ↔ b.cuesAgree items := by
  have hc := fun l : List Cue => chain_iff cuesInOrder (by
    intro x y z h k
    simp only [cuesInOrder, Bool.or_eq_true, Bool.and_eq_true, decide_eq_true_eq, beq_iff_eq] at *
    omega) l
  unfold Job.cuesOk Job.cuesAgree
  rw [Bool.and_eq_true, textTracks_all_iff]
  refine and_congr (by simp [Option.isSome_iff_ne_none]) <|
    forall_congr' fun i => forall_congr' fun t => forall_congr' fun _ => ?_
  simp only [and_assoc, Bool.and_eq_true, List.all_eq_true, distinct_map, hc]
  refine and_congr_right fun _ => and_congr (by simp [cuesInOrder]) (forall_congr' fun c => forall_congr' fun _ => ?_)
  simp only [decide_eq_true_eq]
  refine and_congr_right fun _ => and_congr_right fun _ => ?_
  by_cases ho : b.onLane t = true
  · have ho' : b.laneSet.enabled = true ∧ t.service ≠ 0 := by simpa [Job.onLane] using ho
    cases hs : t.segOut <;> cases hl : c.lane <;> simp [Job.retired, ho, ho', hs, hl]
  · have ho' : ¬(b.laneSet.enabled = true ∧ t.service ≠ 0) := by simpa [Job.onLane] using ho
    rw [Bool.not_eq_true] at ho
    cases hs : t.segOut <;> cases hl : c.lane <;> simp [Job.retired, ho, hs, hl, ho']

/-- Envelope (R172). -/
theorem envelopeOk_iff (t : DescTrack) : t.envelopeOk = true ↔ t.envelopeAgrees := by
  have hc := chain_iff (fun x y : Breakpoint => decide (x.pos ≤ y.pos)) (by simp; omega) t.points
  simp only [DescTrack.envelopeOk, DescTrack.envelopeAgrees, DescTrack.lastSound, Bool.and_eq_true, hc, and_assoc,
    List.all_eq_true, decide_eq_true_eq]
  refine and_congr_right fun _ => and_congr_right fun _ => and_congr_right fun _ => ?_
  rw [show (Clip.sounds) = (fun c : Clip => c.state == .placed || c.state == .overlaid) from rfl]
  cases hl : (t.placed.filter fun c => c.state == .placed || c.state == .overlaid).getLast? <;>
    cases t.tailState <;> cases t.prev <;> simp [Clip.endS]

/-- Form (R172). -/
theorem formOk_iff (f : Form) (b : Job) : b.formOk f = true ↔ b.formAgrees f := by
  cases f
  · simp only [Job.formOk, Bool.and_eq_true, descTracks_all_iff]
    simp [Job.formAgrees, Job.anyDisplayed, Option.isSome_iff_ne_none, and_assoc]
  · simp [Job.formOk, Job.formAgrees, Job.anyDisplayed, Option.isSome_iff_ne_none, or_assoc]

/-- Clips (R172). -/
theorem clipsOk_iff (b : Job) (items : List (Fin 16 × Clip)) : b.clipsOk items = true ↔ b.clipsAgree items := by
  have hp := fun l : List Clip => chain_iff clipsInOrder (by
    intro x y z h k
    simp only [clipsInOrder, Bool.or_eq_true, Bool.and_eq_true, decide_eq_true_eq, beq_iff_eq] at *
    omega) l
  have hs := fun l : List Clip =>
    chain_iff (fun x y : Clip => decide (x.start.getD 0 < y.start.getD 0)) (by simp; omega) l
  unfold Job.clipsOk Job.clipsAgree
  rw [Bool.and_eq_true, descTracks_all_iff]
  refine and_congr (by simp [Option.isSome_iff_ne_none]) <|
    forall_congr' fun i => forall_congr' fun t => forall_congr' fun _ => ?_
  simp only [and_assoc, Bool.and_eq_true, List.all_eq_true, distinct_map, hp, hs]
  refine and_congr Iff.rfl <| and_congr ?_ <| and_congr (by simp [clipsInOrder]) <| and_congr ?_ ?_
  · simp [DescTrack.live, Config.clipsPerTrack]
  · simp only [decide_eq_true_eq]; exact Iff.rfl
  refine forall_congr' fun c => forall_congr' fun _ => ?_
  have he : b.tb.firstSample b.seg.emitted = b.emittedSample := rfl
  rw [he]
  cases hst : c.state <;> cases hr : c.release <;> cases hg : b.gaps <;>
    simp [Clip.sounds, hst, hr, hg, Clip.freedBy, Job.gapNamed, and_assoc] <;> intros <;> exact and_comm

/-- The track of a service in use (R83). -/
theorem serviceTrack_some {b : Job} {sv : Nat} {p : Fin 16 × TextTrack} (h : b.serviceTrack sv = some p) :
    b.laneSet.enabled = true ∧ b.text? p.1 = some p.2 ∧ p.2.service = sv := by
  unfold Job.serviceTrack at h
  split at h
  · rename_i he
    have h1 := List.find?_some h
    have h2 := List.mem_of_find?_eq_some h
    exact ⟨he, mem_textTracks.1 h2, by simpa using h1⟩
  · cases h

/-- A service that no track uses. -/
theorem serviceTrack_none {b : Job} {sv : Nat} :
    b.serviceTrack sv = none ↔ ∀ i t, ¬(b.laneSet.enabled = true ∧ b.text? i = some t ∧ t.service = sv) := by
  unfold Job.serviceTrack
  split
  · rename_i he
    simp only [List.find?_eq_none, Prod.forall, mem_textTracks, he, true_and, not_and, beq_iff_eq]
  · rename_i he; simp [he]

/-- Lane (R172), where no two tracks share a service. -/
theorem laneOk_iff (b : Job) (hu : ∀ i k t u, i ≠ k → b.text? i = some t → b.text? k = some u →
    t.service = u.service → t.service = 0) :
    b.laneOk = true ↔ b.laneAgrees := by
  unfold Job.laneOk Job.laneAgrees
  rw [Bool.and_eq_true]
  refine and_congr ?_ ?_
  · rw [List.all_eq_true]
    have hm : ∀ sv, sv ∈ serviceNumbers ↔ 1 ≤ sv ∧ sv ≤ 4 := by
      intro sv; simp [serviceNumbers]; omega
    simp only [hm]
    refine forall_congr' fun sv => ?_
    rw [and_imp]
    refine forall_congr' fun h1 => forall_congr' fun h2 => ?_
    unfold Job.serviceOk
    cases hst : b.serviceTrack sv with
    | none =>
      have hn := serviceTrack_none.1 hst
      simp only [Bool.and_eq_true, Option.isNone_iff_eq_none]
      constructor
      · intro h; exact ⟨fun _ => h, fun i t hit => absurd hit (hn i t)⟩
      · intro h; exact h.1 hn
    | some p =>
      obtain ⟨i, t⟩ := p
      have hs := serviceTrack_some hst
      have huniq : ∀ i' t', (b.laneSet.enabled = true ∧ b.text? i' = some t' ∧ t'.service = sv) → i' = i ∧ t' = t := by
        rintro i' t' ⟨-, hb, hc⟩
        by_cases he : i' = i
        · subst he; exact ⟨rfl, Option.some.inj (hb.symm.trans hs.2.1)⟩
        · have := hu i' i t' t he hb hs.2.1 (by rw [hc]; exact hs.2.2.symm)
          omega
      simp only [Bool.and_eq_true, List.all_eq_true]
      constructor
      · intro h
        refine ⟨fun hn => absurd hs (hn i t), ?_⟩
        rintro i' t' hit
        obtain ⟨rfl, rfl⟩ := huniq _ _ hit
        obtain ⟨⟨hd, hl⟩, hc⟩ := h
        refine ⟨?_, ?_, ?_⟩
        · intro d hd'; simp only [hd', List.any_eq_true] at hd; simpa [and_assoc] using hd
        · intro l hl'; rw [hl'] at hl; simp only [List.any_eq_true, loadCost] at hl
          obtain ⟨c, hc1, hc2⟩ := hl
          simp only [Bool.and_eq_true, beq_iff_eq] at hc2
          refine ⟨c, hc1, hc2.1.1, hc2.1.2, ?_⟩
          intro k hk; rw [hk] at hc2; exact of_decide_eq_true hc2.2
        · intro c hc'
          have := hc c hc'
          cases hst : c.lane <;> simp [hst] at this ⊢
          · revert this; split <;> simp_all
          · revert this; split <;> simp_all
      · intro h
        obtain ⟨hd, hl, hc⟩ := h.2 i t hs
        refine ⟨⟨?_, ?_⟩, ?_⟩
        · split
          · rename_i d hd'; obtain ⟨c, h1, h2, h3, h4⟩ := hd d hd'
            simp only [List.any_eq_true]; exact ⟨c, h1, by simp [h2, h3, h4]⟩
          · rfl
        · split
          · rename_i l hl'; obtain ⟨c, h1, h2, h3, h4⟩ := hl l hl'
            simp only [List.any_eq_true]; refine ⟨c, h1, ?_⟩
            cases hk : l.step with
            | none => simp [h2, h3]
            | some k => simp [h2, h3, loadCost, h4 k hk]
          · rfl
        · intro c hc'
          obtain ⟨ha, hb⟩ := hc c hc'
          cases hst : c.lane <;> simp [hst] at ha hb ⊢
          · obtain ⟨l, h1, h2⟩ := hb; simp [h1, h2]
          · obtain ⟨d, h1, h2⟩ := ha; simp [h1, h2]
  · simp only [Bool.or_eq_true, beq_iff_eq]
    by_cases h0 : b.lane.current = 0
    · simp [h0]
    simp only [h0, false_or]
    simp only [Job.servicesInUse, List.contains_eq_mem, List.mem_filter, decide_eq_true_eq]
    refine and_congr (by simp [serviceNumbers]; omega) ?_
    rw [Option.isSome_iff_ne_none, ne_eq, serviceTrack_none]
    simp only [not_forall, not_not]

/-! ### Settings and the whole -/

/-- A list that rises strictly. -/
theorem risesStrictly_iff (l : List Nat) : risesStrictly l = true ↔ l.Pairwise (· < ·) := by
  induction l with
  | nil => simp [risesStrictly]
  | cons x xs ih =>
    cases xs with
    | nil => simp [risesStrictly]
    | cons y ys =>
      simp only [risesStrictly, Bool.and_eq_true, ih, decide_eq_true_eq, List.pairwise_cons]
      constructor
      · rintro ⟨h, k, m⟩
        refine ⟨?_, k, m⟩
        intro z hz
        rcases List.mem_cons.1 hz with rfl | hz
        · exact h
        · exact Nat.lt_trans h (k z hz)
      · rintro ⟨h, k, m⟩
        exact ⟨h y (by simp), k, m⟩

theorem pair_sublist_trackNumbers : ∀ i k : Fin 16, i < k → List.Sublist [i, k] trackNumbers := by decide

/-- No two TEXT tracks share a service other than 0 (R42). -/
theorem services_distinct_iff (b : Job) :
    distinct ((b.textTracks.map fun p => p.2.service).filter fun sv => sv != 0) = true ↔
      ∀ i k t u, i ≠ k → b.text? i = some t → b.text? k = some u → t.service = u.service → t.service = 0 := by
  have hn : trackNumbers.Nodup := by decide
  rw [distinct_iff, List.pairwise_filter, List.pairwise_map]
  unfold Job.textTracks
  rw [List.pairwise_filterMap]
  constructor
  · intro h i k t u hik hi hk hs
    by_contra h0
    have key : ∀ i k t u, i < k → b.text? i = some t → b.text? k = some u → t.service = u.service → t.service ≠ 0 →
        False := by
      intro i k t u hik hi hk hs h0
      have hsub := pair_sublist_trackNumbers i k hik
      have := List.rel_of_pairwise_cons (h.sublist hsub) (List.mem_singleton.2 rfl)
      exact this (i, t) (by simp [hi]) (k, u) (by simp [hk]) (by simpa using h0) (by simpa [← hs] using h0) hs
    rcases lt_or_gt_of_ne hik with hlt | hgt
    · exact key i k t u hlt hi hk hs h0
    · exact key k i u t hgt hk hi hs.symm (hs ▸ h0)
  · intro h
    refine hn.imp_of_mem ?_
    intro i k _ _ hik p hp q hq
    simp only [Option.map_eq_some_iff] at hp hq
    obtain ⟨t, ht, rfl⟩ := hp
    obtain ⟨u, hu, rfl⟩ := hq
    intro h1 h2 e
    have := h i k t u hik ht hu e
    simp [this] at h1

/-- The enabled thresholds rise (R109). -/
theorem enabledThresholds_rise_iff (ts : List Nat) (mask : Byte) (h : ts.length = 8) :
    risesStrictly (enabledThresholds ts mask) = true ↔
      ∀ m n, m < n → n < 8 → mask.getLsbD m = true → mask.getLsbD n = true → ts.getD m 0 < ts.getD n 0 := by
  rw [risesStrictly_iff, enabledThresholds, List.pairwise_map, List.pairwise_filter]
  have hz : (ts.zip [0, 1, 2, 3, 4, 5, 6, 7]).length = 8 := by simp [h]
  rw [List.pairwise_iff_getElem]
  have hg : ∀ m (hm : m < 8), [0, 1, 2, 3, 4, 5, 6, 7][m]'hm = m := by decide
  constructor
  · intro H m n hmn hn hm1 hn1
    have := H m n (by omega) (by omega) hmn
    simp only [List.getElem_zip] at this
    rw [hg m (by omega), hg n hn] at this
    have := this hm1 hn1
    simpa [h, hn, (by omega : m < 8)] using this
  · intro H m n hm hn hmn
    have hm8 : m < 8 := by omega
    have hn8 : n < 8 := by omega
    simp only [List.getElem_zip]
    rw [hg m hm8, hg n hn8]
    intro h1 h2
    have := H m n hmn hn8 h1 h2
    simpa [h, hn8, hm8] using this

theorem descTracks_length (b : Job) :
    b.descTracks.length = (trackNumbers.filter fun i => (b.desc? i).isSome).length := by
  unfold Job.descTracks
  rw [List.length_filterMap_eq_countP, ← List.countP_eq_length_filter]
  congr 1; funext i; cases b.desc? i <;> rfl

/-- Every track is one that TDEF and DUCK would take. -/
theorem tracks_ok_iff (b : Job) :
    (∀ i ∈ trackNumbers, (match b.track i with | some t => t.ok | none => true) = true) ↔
    (∀ i t, b.text? i = some t → Track.ok (.text t) = true) ∧
      ∀ i t, b.desc? i = some t → Track.ok (.desc t) = true := by
  constructor
  · intro h
    refine ⟨fun i t ht => ?_, fun i t ht => ?_⟩
    · have := h i (mem_trackNumbers i)
      unfold Job.text? at ht; revert ht this; cases b.track i with
      | none => simp
      | some x => cases x <;> simp
                  rintro h e; rw [h] at e; exact e
    · have := h i (mem_trackNumbers i)
      unfold Job.desc? at ht; revert ht this; cases b.track i with
      | none => simp
      | some x => cases x <;> simp
                  rintro h e; rw [h] at e; exact e
  · rintro ⟨h1, h2⟩ i -
    have h1 := h1 i; have h2 := h2 i
    unfold Job.text? at h1; unfold Job.desc? at h2
    revert h1 h2; cases b.track i with
    | none => simp
    | some x => cases x <;> simp

/-- A TEXT track's settings (R42). -/
theorem textTrack_ok_iff (t : TextTrack) : Track.ok (.text t) = true ↔
    languageOk t.language ∧ t.service ≤ 4 ∧ (t.segOut = true ∨ t.service ≠ 0) := by
  simp [Track.ok, trackOk, languageOk, isLower, within, and_assoc]

/-- A DESC track's settings (R42, R132). -/
theorem descTrack_ok_iff (t : DescTrack) : Track.ok (.desc t) = true ↔ languageOk t.language ∧ -160 ≤ t.duck.depth ∧
    t.duck.depth ≤ -8 ∧ -80 ≤ t.duck.extra ∧ t.duck.extra ≤ 0 ∧ t.duck.rampDown ≤ 48000 ∧ t.duck.rampUp ≤ 48000 ∧
    t.duck.mergeGap ≤ 96000 ∧ t.duck.lead ≤ 48000 ∧ t.duck.tail ≤ 48000 ∧ t.duck.spacing ≤ 96000 := by
  simp [Track.ok, trackOk, languageOk, isLower, within, Ducking.valid, depthOk, and_assoc]
  intros; constructor <;> rintro ⟨h1, h2, h3, h4, h⟩ <;> exact ⟨h2, h1, h4, h3, h⟩

/-- Settings (R172). -/
theorem settingsOk_iff (b : Job) : b.settingsOk = true ↔ b.settingsTaken := by
  unfold Job.settingsOk Job.settingsTaken
  simp only [Bool.and_eq_true, decide_eq_true_eq, services_distinct_iff, descTracks_length]
  simp only [rateOk, within, spanLimit, LaneSettings.valid, DetSettings.valid, Bool.and_eq_true, decide_eq_true_eq,
    Bool.or_eq_true, beq_iff_eq, List.all_eq_true, and_assoc]
  constructor
  · rintro ⟨a1, a2, a3, a4, a5, a6, a7, a8, a9, a10, a11, a12, a13, a14, a15, a16, a17, a18, a19, a20, a21, a22, a23,
      a24, a25, a26, a27, a28, a29, a30, a31, a32⟩
    exact ⟨a1, a2, a3, a4, a5, a6, of_decide_eq_true a7, a8, a9, a10, a11, a12, a13, a14, a15, a16, a17, a18, a19,
        a20, (enabledThresholds_rise_iff _ _ a19).1 a21, a22, a23, a24, a25, a26, a27, a28, a29,
        fun i t h => (textTrack_ok_iff t).1 (((tracks_ok_iff b).1 a30).1 i t h),
      fun i t h => (descTrack_ok_iff t).1 (((tracks_ok_iff b).1 a30).2 i t h), a31, a32⟩
  · rintro ⟨a1, a2, a3, a4, a5, a6, a7, a8, a9, a10, a11, a12, a13, a14, a15, a16, a17, a18, a19, a20, a21, a22, a23,
      a24, a25, a26, a27, a28, a29, a30, a31, a32, a33⟩
    exact ⟨a1, a2, a3, a4, a5, a6, decide_eq_true a7, a8, a9, a10, a11, a12, a13, a14, a15, a16, a17, a18, a19, a20,
        (enabledThresholds_rise_iff _ _ a19).2 a21, a22, a23, a24, a25, a26, a27, a28, a29,
      (tracks_ok_iff b).2 ⟨fun i t h => (textTrack_ok_iff t).2 (a30 i t h),
          fun i t h => (descTrack_ok_iff t).2 (a31 i t h)⟩, a32, a33⟩

/-- The whole-context test passes exactly the readings whose job is one R172 lets be restored. -/
theorem reading_ok_iff (f : Form) (rd : Reading) : rd.ok f = true ↔ rd.build.restorable f rd.cues rd.clips := by
  simp only [Reading.ok, Job.restorable, Bool.and_eq_true, settingsOk_iff, progressOk_iff, detectorOk_iff,
    gapsOk_iff, cuesOk_iff, clipsOk_iff, formOk_iff, descTracks_all_iff, envelopeOk_iff, and_assoc]
  refine and_congr_right fun h => and_congr_right fun _ => and_congr_right fun _ => ?_
  refine and_congr_right fun _ => and_congr_right fun _ => ?_
  rw [laneOk_iff _ (by unfold Job.settingsTaken at h; exact h.2.2.2.2.2.2.2.2.2.2.2.2.2.2.2.2.2.2)]

end Sys2Proof.Machine
end

