-- ==== Sys2Proof/Tests/Slice0.lean ====
section
/-! SUPPORT. Tests: the well-formedness checks, worked cases of the manual, and for each statement with hypotheses a
state and operands that meet them. Expected values stand in the manual or are worked from it by hand. -/

namespace Sys2Proof.Tests
open Sys2Proof Sys2Proof.Machine

/-! ### Helpers -/

/-- A request record with tag 7. -/
def rq (job : Byte) (body : List Byte) : Req := { job := job, flags := 0#8, tag := 7#16, body := body }

/-- What a command leaves. -/
def after (c : Instr) (s : State) : State := match exec c s with | .next t => t | _ => s

/-- Status and fields of the first record of the store. -/
def replyOf (s : State) : List Byte := (s.store.head?.map fun e => e.record.body.drop 1).getD []

/-- The letters of "eng". -/
def eng : List Byte := [0x65#8, 0x6E#8, 0x67#8]

/-- A cue of frames 20 to 40, a pending clip and a placed one. -/
def cueA : Cue :=
  { id := 5, region := .bottom, text := [0x48#8], laneText := none, startF := 20, endF := 40, clipped := false,
    stretched := false, clamped := false, lane := .off, arrival := 0 }

def clipA : Clip :=
  { id := 6, ref := 60, dur := 960, depthOv := none, d := 48000, l := 96000, state := .pending, start := none,
    depth := none, gap := none, release := none, arrival := 1 }

def clipB : Clip :=
  { clipA with id := 7, state := .overlaid, start := some 48000, depth := some (-72), release := some 50000, arrival := 2 }

def textA : TextTrack := { language := eng, segOut := true, service := 0, cues := [cueA] }

def descA : DescTrack :=
  { language := eng, segOut := true, duck := Ducking.default, pending := [clipA], placed := [clipB], prev := none,
    tailState := .none, points := [], base := ⟨0, 0⟩ }

/-- The fields of a 25/1 job. -/
def fields25 : JopnFields :=
  { num := 25, den := 1, segLen := 50, cueQuota := none, clipQuota := none, span := some 1000 }

/-- A 25/1 job of 1,000 frames at W = 10, with a TEXT track 0 and a DESC track 1. -/
def demo (st : JobState) : Job :=
  { openedJob fields25 with
    state := st, tb := ⟨25, 1, 1000, some 0⟩, w := some 10,
    tracks := #v[some (.text textA), some (.desc descA), none, none, none, none, none, none, none, none, none, none,
      none, none, none, none] }

/-- The reset state with a job in slot 1. -/
def withJob (b : Job) : State := State.reset.setJob 0 b

/-- An entry of the store of a class. -/
def entry (c : OutClass) : OutEntry :=
  { record := ⟨kRPLY, 1#8, 0#8, 0#16, []⟩, cls := c, owner := none, unfinished := false, lastPart := false }

/-! ### Well-formedness refuses -/

theorem test_wf_body_1024 : (Instr.cue (rq 1 (List.replicate 1024 0#8))).wf = true := by decide +kernel
theorem test_wf_body_1025 : (Instr.cue (rq 1 (List.replicate 1025 0#8))).wf = false := by decide +kernel
theorem test_wf_unknown : (Instr.unknownKind 0x0F#8 (rq 1 [])).wf = true := by decide
theorem test_wf_unknown_request : (Instr.unknownKind 0x21#8 (rq 1 [])).wf = false := by decide

/-! ### Words, checks, kinds -/

/-- R195 gives the check of 31h to 39h. -/
theorem test_check_digits : crc [0x31#8, 0x32#8, 0x33#8, 0x34#8, 0x35#8, 0x36#8, 0x37#8, 0x38#8, 0x39#8] = 0x29B1#16 := by
  decide +kernel

theorem test_no_row_has_bits : decodeTableWord 8 1 = none ∧ State.reset.withFetchWord 8 1 = State.reset := by decide

/-- Every kind of the table of 11.2 has its code. -/
theorem test_codes : (requestCodes.map fun n => (Kind.ofCode (BitVec.ofNat 8 n)).map fun k => k.code.toNat) =
    requestCodes.map some := by decide

/-! ### Worked cases of Programme Time -/

/-- The table of 24-hour limits (R3). -/
theorem test_span_limits : [spanLimit 25 1, spanLimit 24000 1001, spanLimit 30000 1001, spanLimit 60 1] =
    [2160000, 2071528, 2589410, 5184000] := by decide

/-- The cue at 24000/1001 (1.5): frames 1,475 to 1,540. -/
theorem test_cue_frames : ((⟨24000, 1001, 2071528, none⟩ : Timebase).frameOf 61500,
    (⟨24000, 1001, 2071528, none⟩ : Timebase).frameOf 64250) = (1475, 1540) := by decide

/-- Its table of output times and first samples (1.5). -/
theorem test_output_times : ([1440, 1475, 1536, 1540, 1632].map (⟨24000, 1001, 2071528, none⟩ : Timebase).outMs,
    [1440, 1475, 1536, 1540, 1632].map (⟨24000, 1001, 2071528, none⟩ : Timebase).firstSample) =
    ([60060, 61520, 64064, 64231, 68068], [2882880, 2952950, 3075072, 3083080, 3267264]) := by decide

/-! ### Commands -/

/-- JOPN at 25/1 with no span: OK and the 24-hour limit, 2,160,000 = 20F580h (R3, R22). -/
theorem test_jopn : replyOf (after (.jopn (rq 1 (encodeJopn { fields25 with span := none }))) State.reset) =
    [0#8, 0#8, 0x20#8, 0xF5#8, 0x80#8] := by decide

/-- A span above the limit is clamped (R3). -/
theorem test_jopn_clamped : (replyOf (after (.jopn (rq 1 (encodeJopn { fields25 with span := some 2160001 })))
    State.reset)).head? = some 1#8 := by decide

/-- TDEF replies the counts of tracks: a third track, the second DESC (R42, R197). -/
theorem test_tdef : replyOf (after (.tdef (rq 1 ([2#8, 1#8] ++ eng ++ [1#8, 0#8]))) (withJob (demo .opened))) =
    [0#8, 3#8, 2#8] := by decide

theorem test_lset_symbols : replyOf (after (.lset (rq 1 [0#8, 1#8, 3#8, 0#8, 0#8, 0#8, 0#8]))
    (withJob (demo .opened))) = [17#8] := by decide

/-- Thresholds that do not rise are refused (R109). -/
theorem test_dset_not_rising : replyOf (after (.dset (rq 1 (0#8 :: List.replicate 8 100#8 ++
    [0xFF#8, 0#8, 4#8, 0#8, 0#8, 0#8, 0#8, 0#8]))) (withJob (demo .running))) = [17#8] := by decide

/-- JGO without an anchor: ANCHOR_WAIT is 2 (R24, R197). -/
theorem test_jgo : replyOf (after (.jgo (rq 1 [])) (withJob { demo .opened with w := none })) = [0#8, 2#8] := by
  decide

theorem test_hold : replyOf (after (.hold (rq 1 [])) (withJob (demo .running))) = [0#8, 5#8] := by decide

theorem test_rsum_latch : replyOf (after (.rsum (rq 1 [])) (withJob { demo .held with
    latch := [requestRecord 0x15#8 (rq 1 (beBytes 4 20)), requestRecord 0x15#8 (rq 1 (beBytes 4 5))] })) =
    [0#8, 2#8, 1#8] := by decide +kernel

theorem test_fin_behind : replyOf (after (.fin (rq 1 (beBytes 4 9))) (withJob (demo .running))) = [21#8] := by decide
theorem test_fin_beyond : replyOf (after (.fin (rq 1 (beBytes 4 1001))) (withJob (demo .running))) = [30#8] := by
  decide

theorem test_abrt : replyOf (after (.abrt (rq 1 [])) (withJob (demo .held))) = [0#8, 5#8, 0#8] := by decide
theorem test_rls : (after (.rls (rq 1 [])) (withJob (demo .done))).slot 0 = .free := by decide

/-- A free slot reports its state alone (R39). -/
theorem test_jqry_free : replyOf (after (.jqry (rq 8 [])) State.reset) = 0#8 :: 0#8 :: absentBytes 33 := by decide

/-- The reply ends with N as set, after any clamp (R3): a span above the limit of 25/1 reads 2,160,000 = 20F580h. -/
theorem test_jqry_span : ((openedJob { fields25 with span := some 3000000 }).tb.span = 2160000) ∧
    (replyOf (after (.jqry (rq 1 [])) (withJob (openedJob { fields25 with span := some 3000000 })))).drop 31 =
      [0x00#8, 0x20#8, 0xF5#8, 0x80#8] := by decide

/-- DQRY after reset: 4,096, 8,192 and 1,024 free, eight FREE slots, serial 0 (R40, R187). -/
theorem test_dqry : replyOf (after (.dqry (rq 0 [])) State.reset) =
    [0#8, 0x10#8, 0#8, 0x20#8, 0#8, 0x04#8, 0#8, 0#8, 0#8, 0#8, 0#8, 0#8, 0#8, 0#8, 0#8, 0#8, 0#8] := by decide

/-- A cue from 1,000 ms to 1,010 ms at 25/1 covers frame 25 alone: stretched (R6). -/
theorem test_cue_stretched : replyOf (after (.cue (rq 1 (encodeCue ⟨0, 9, 1000, 1010, .top, [0x41#8], none⟩)))
    (withJob (demo .running))) = [0#8, 0#8, 0#8, 0#8, 25#8, 0#8, 0#8, 0#8, 26#8, 2#8] := by decide +kernel

theorem test_cue_duplicate : replyOf (after (.cue (rq 1 (encodeCue ⟨0, 5, 1000, 1010, .top, [0x41#8], none⟩)))
    (withJob (demo .running))) = [22#8] := by decide

theorem test_crev : replyOf (after (.crev (rq 1 (encodeRevoke 0 5))) (withJob (demo .running))) = [0#8] := by decide
theorem test_krev_resolved : replyOf (after (.krev (rq 1 (encodeRevoke 1 7))) (withJob (demo .running))) = [33#8] := by
  decide

/-- A clip wanted from 0 ms at W = 10: d is raised to sample 19,200, so CLIPPED; l is 96,000 (R139). -/
theorem test_clip_raised : replyOf (after (.clip (rq 1 (encodeClip ⟨1, 8, 80, 0, 2000, 960, none⟩)))
    (withJob (demo .running))) = [2#8, 0#8, 0#8, 0x4B#8, 0#8, 0#8, 1#8, 0x77#8, 0#8] := by decide +kernel

/-- One window at index 2 with no levels seen: two windows lost, one taken (R113, R115). -/
theorem test_lvl_lost : replyOf (after (.lvl (rq 1 (encodeLvl ⟨2, [⟨0, 0, 0⟩]⟩))) (withJob (demo .running))) =
    0#8 :: (beBytes 4 1 ++ beBytes 4 0 ++ beBytes 4 0 ++ beBytes 4 0 ++ beBytes 4 2 ++ beBytes 4 2880) := by
  decide +kernel

theorem test_adv_behind : replyOf (after (.adv (rq 1 (beBytes 4 9))) (withJob (demo .running))) =
    21#8 :: beBytes 4 10 := by decide

theorem test_nset : replyOf (after (.nset (rq 0 (beBytes 4 0x3F000000))) State.reset) =
    [0#8, 0x3F#8, 0#8, 0#8, 0#8] := by decide

theorem test_unknown_kind : replyOf (after (.unknownKind 0x0F#8 (rq 1 [])) State.reset) = [32#8] := by decide

/-! ### States and operands that meet the hypotheses of each statement -/

/-- The idle step and the front of the queue. -/
theorem test_StepRunsFrontCommand : State.reset.pending = [] ∧ State.reset.roomDue = false := by decide

theorem test_ExecKeepsQueue : exec .linkTimeout (withJob (demo .running)) =
    .next (after .linkTimeout (withJob (demo .running))) := rfl

/-- One state for the invariants. -/
def queued : State := { withJob (demo .running) with pending := [.hold (rq 1 [])] }

theorem test_StepKeeps : queued.withinCapacity = true ∧ queued.noticesSound = true ∧ queued.marksOk = true ∧
    queued.withinPools = true ∧ queued.emissionsOk = true ∧ queued.listsOk = true ∧
    safeOutcome (step queued) = true := by decide

theorem test_FrameOfRoundsHalfUp : 1 ≤ (⟨25, 1, 1000, none⟩ : Timebase).den ∧
    2 * 20 * 25 = (2 * 0 + 1) * (1 * 1000) ∧ 2 * 60 * 25 = (2 * 1 + 1) * (1 * 1000) := by decide

/-- The valid rates include both ends. -/
theorem test_OutputTimeReturnsItsFrame : rateOk 25 1 = true ∧ rateOk 10 1 = true ∧ rateOk 120 1 = true ∧
    rateOk 120120 1001 = true := by decide

theorem test_SampleRangesTile : rateOk 120 1 = true ∧ 399 < (⟨120, 1, 1000, none⟩ : Timebase).firstSample 1 ∧
    1 * 48000 = 400 * 120 := by decide

theorem test_RequestBodiesReadBack :
    (fields25.valid = true ∧ { fields25 with span := none, cueQuota := some 16, clipQuota := some 1024 }.valid = true) ∧
    (⟨15, true, eng, true, 0⟩ : TdefFields).valid = true ∧ LaneSettings.default.valid = true ∧
    DetSettings.default.valid = true ∧
    (⟨15, some 160, some 80, none, none, some 96000, none, none, none, some .drop⟩ : DuckFields).valid = true ∧
    (⟨0, 9, 1000, 1000, .top, [0x41#8], some [0x42#8]⟩ : CueFields).valid = true ∧
    (⟨1, 8, 80, 0, 0, 480, some 8⟩ : ClipFields).valid = true ∧ 1 ≤ [(⟨255, 0, 255⟩ : Levels)].length := by
  decide

theorem test_FramerReadsFrame : State.reset.phase = .run ∧ State.reset.roomDue = false ∧ State.reset.rx = .high ∧
    State.reset.framer = .hunt ∧ (List.replicate 1024 0#8).length ≤ 1024 := by decide +kernel

theorem test_ContextEntriesReadBack : cueA.startF < cueA.endF ∧ cueA.laneText ≠ some [] ∧ clipA.fieldsSet = true ∧
    clipB.fieldsSet = true ∧ depthOk (-160) = true ∧ clipA.d ≤ clipA.l ∧ 480 ≤ clipA.dur ∧
    (⟨3, 960, some 1920, 0, 0⟩ : Gap).start % 960 = 0 := by decide

/-- A block whose fields fit their places, and a breakpoint list within the span of 1,920,000 samples. -/
theorem test_block_fits : (demo .held).blockFits = true ∧ (demo .held).spanEnd = 1920000 ∧
    [(⟨1920000, -160⟩ : Breakpoint)].length ≤ 256 ∧
    (∀ p ∈ [(⟨1920000, -160⟩ : Breakpoint)], p.pos < 2 ^ 32 ∧ p.pos ≤ (demo .held).spanEnd ∧ p.gain ≤ 0 ∧ -160 ≤ p.gain) := by
  decide +kernel

/-- Entries that fit and lie in their ranges, the last frame and sample of the span included, and some that do not. -/
theorem test_items_fit : cueA.fits ∧ cueA.inRange 40 ∧ ¬cueA.inRange 39 ∧ clipA.fits ∧ clipA.inRange 96960 ∧
    ¬clipA.inRange 96959 ∧ clipB.fits ∧ clipB.inRange 1920000 ∧ (⟨3, 960, some 1920, 0, 0⟩ : Gap).fits ∧
    (⟨3, 960, some 1920, 0, 0⟩ : Gap).inRange 1920 ∧ ¬(⟨3, 960, some 1920, 0, 0⟩ : Gap).inRange 1919 ∧
    (⟨1920, -160⟩ : Breakpoint).fits ∧ (⟨1920, -160⟩ : Breakpoint).inRange 1920 ∧
    ¬(⟨1920, -161⟩ : Breakpoint).inRange 1920 := by
  simp [Cue.fits, Cue.inRange, Clip.fits, Clip.inRange, Gap.fits, Gap.inRange, Breakpoint.fits, Breakpoint.inRange,
    cueA, clipA, clipB, textLen]
  omega

/-- A job whose entries the pools just hold, and one without entries, for a SHORT context. -/
theorem test_round_trip : (demo .held).cueEntries = [(0, cueA)] ∧ (demo .held).clipEntries = [(1, clipA), (1, clipB)] ∧
    (demo .held).gaps = [] ∧ (demo .held).pointLists = [[]] ∧ 2 ≤ (demo .held).clipQuota ∧ 1 ≤ (demo .held).cueQuota ∧
    { demo .held with tracks := (openedJob fields25).tracks }.blockFits = true ∧
    { demo .held with tracks := (openedJob fields25).tracks }.cueEntries = [] ∧
    { demo .held with tracks := (openedJob fields25).tracks }.clipEntries = [] := by decide +kernel

/-- A SHORT context takes one part; 1,018 bytes take two, the corner of assumption 18. -/
theorem test_ContextPartsFit : (∀ c ∈ textA.cues, c.text.length ≤ 480) ∧ partCount 416 = 1 ∧ partCount 1017 = 1 ∧ partCount 1018 = 2 ∧ partCount 2036 = 2 ∧
    partCount 2037 = 3 ∧ 1018 % 1019 = 1018 := by decide

theorem test_BadJobFieldRefused : State.reset.ready = true ∧ jobFieldOk .cue 0#8 = false ∧ jobFieldOk .adv 9#8 = false ∧
    jobFieldOk .dqry 1#8 = false ∧ jobFieldOk .nset 9#8 = false := by decide

theorem test_WrongStateRefused : State.reset.ready = true ∧ slotOf 1#8 = some 0 ∧ slotOf 8#8 = some 7 ∧
    jobFieldOk .cue 1#8 = true ∧ (takenStates .cue).contains (State.reset.slot 0).code = false ∧
    (takenStates .lvl).contains ((withJob (demo .opened)).slot 0).code = false ∧ otherStatus .lvl 1 = .noAnchor := by
  decide

theorem test_WrongLengthRefused : (withJob (demo .running)).ready = true ∧ lengthOk .hold [0#8] = false ∧
    (takenStates .hold).contains ((withJob (demo .running)).slot 0).code = true ∧
    lengthOk .adv [0#8] = false ∧ ((withJob (demo .running)).slot 0).code = 3 ∧ lengthOk .dqry [0#8] = false ∧
    jobFieldOk .dqry 0#8 = true := by decide

theorem test_AfterKeepsState : State.reset.slot 0 = .free ∧ (withJob (demo .held)).slot 0 = .job (demo .held) ∧
    State.reset.tx = none := by decide

theorem test_JopnOpensJob : State.reset.ready = true ∧ slotOf 1#8 = some 0 ∧ State.reset.slot 0 = .free ∧
    parseJopn [] = none ∧ parseJopn (encodeJopn fields25) = some fields25 := by decide

/-- Jobs in every state are addressed by a request that is taken at once. -/
theorem test_asked (st : JobState) (body : List Byte) : (withJob (demo st)).asked (rq 1 body) 0 (demo st) := by
  refine ⟨?_, ?_, rfl⟩
  · cases st <;> decide
  · rfl

theorem test_TdefDefinesTrack : parseTdef ([2#8, 1#8] ++ eng ++ [1#8, 0#8]) = some ⟨2, true, eng, true, 0⟩ ∧
    parseTdef ([2#8, 0#8] ++ eng ++ [0#8, 4#8]) = some ⟨2, false, eng, false, 4⟩ := by decide

/-- Bodies TDEF refuses for a field value (R42): number 16, kind 2, an upper-case letter, output 2, service 5, a service
on a DESC track, a TEXT track with no output. -/
theorem test_tdef_field_values : ([[16#8, 0#8] ++ eng ++ [1#8, 0#8], [2#8, 2#8] ++ eng ++ [1#8, 0#8],
    [2#8, 0#8, 0x45#8, 0x6E#8, 0x67#8, 1#8, 0#8], [2#8, 0#8] ++ eng ++ [2#8, 0#8], [2#8, 0#8] ++ eng ++ [1#8, 5#8],
    [2#8, 1#8] ++ eng ++ [1#8, 1#8], [2#8, 0#8] ++ eng ++ [0#8, 0#8]].map fun body =>
      replyOf (after (.tdef (rq 1 body)) (withJob (demo .opened)))) = List.replicate 7 [17#8] := by decide +kernel

theorem test_DsetReplacesSettings : [1#8, 2#8, 3#8, 4#8, 5#8, 6#8, 7#8, 8#8].length = 8 ∧
    (parseDset DetSettings.default
      (0#8 :: [1#8, 2#8, 3#8, 4#8, 5#8, 6#8, 7#8, 8#8] ++ [0xFF#8, 0#8, 7#8, 0#8, 0#8, 0#8, 0#8, 0#8])).isSome = true := by
  decide

/-- Presence byte 16, and a mixed-restart byte of 2 that is present, are refused (R109, R196). -/
theorem test_dset_presence : ([[16#8, 0#8], [4#8, 2#8], [0#8, 2#8]].map fun x => replyOf (after (.dset (rq 1 (x.take 1 ++
    [1#8, 2#8, 3#8, 4#8, 5#8, 6#8, 7#8, 8#8, 0xFF#8, 0#8, 7#8, 0#8, 0#8] ++ x.drop 1 ++ [0#8, 0#8])))
    (withJob (demo .running)))) = [[17#8], [17#8], [0#8]] := by decide

theorem test_DuckSetsParameters : (demo .opened).desc? 1 = some descA ∧ (demo .opened).desc? 0 = none ∧
    parseDuck [] = none ∧
    parseDuck (encodeDuck ⟨1, some 8, none, none, none, none, none, none, none, none⟩) =
      some ⟨1, some 8, none, none, none, none, none, none, none, none⟩ ∧ (demo .running).state ≠ .opened := by decide

theorem test_JgoStartsJob : parseJgo [] ≠ none ∧ (∃ i, (demo .opened).track i ≠ none) ∧
    (openedJob fields25).track 0 = none ∧ parseJgo (beBytes 4 (2 ^ 32 - 1)) ≠ none := by
  refine ⟨by decide, ⟨0, by decide⟩, by decide, by decide⟩

/-- A cue of 1,000 to 1,010 ms and a clip of 2,000 ms wait for the anchor. -/
def anchoring : Job :=
  { demo .anchorWait with
    w := none
    untimed := [.cue ⟨0, 9, 1000, 1010, .top, [0x41#8], none, 3⟩, .clip ⟨1, 8, 80, 2000, 3000, 960, none, 4⟩] }

theorem test_AnchConvertsUntimed : anchoring.state = .anchorWait ∧ anchoring.text? 0 = some textA ∧
    textA.segOut = true ∧ anchoring.desc? 1 = some descA ∧ descA.live.length + 1 ≤ 64 ∧
    { anchoring with w := some 0 }.judgeCue 1000 1010 = .take ⟨25, 26, false, true, false⟩ ∧
    { anchoring with w := some 0 }.judgeClip 2000 3000 960 = .take ⟨96000, 144000, false, false⟩ := by decide +kernel

/-- On the lane without segment output a cue with a row waits and one of a line feed alone is freed at once. -/
theorem test_anch_on_lane : (((after (.anch (rq 1 (beBytes 4 0)))
      (withJob { anchoring with
        laneSet := { LaneSettings.default with enabled := true }
        tracks := anchoring.tracks.set 0 (some (.text { textA with segOut := false, service := 1, cues := [] }))
        untimed := [.cue ⟨0, 9, 1000, 1010, .top, [0x41#8], none, 3⟩, .cue ⟨0, 8, 1000, 1010, .top, [0x0A#8], none, 4⟩]
        })).job? 0).bind fun b => (b.text? 0).map fun t => t.cues.map fun c => (c.id, c.lane)) =
    some [(9, .waiting)] := by decide +kernel

theorem test_HoldHoldsJob : (demo .running).seg.flight = none ∧ (demo .running).lane.flight = none ∧
    { demo .running with seg := ⟨0, 0, some ⟨0, 0, 50, []⟩, false⟩ }.seg.flight ≠ none := by decide

/-- A latched ADV at W = 10: to 20 it is taken, to 9 refused. -/
theorem test_RsumResumesJob : (∃ k, Kind.ofCode (requestRecord Kind.adv.code (rq 1 [])).kind = some k) ∧
    (runData .adv (beBytes 4 20) 0 (demo .running) (withJob (demo .running))).st = .ok ∧
    (runData .adv (beBytes 4 9) 0 (demo .running) (withJob (demo .running))).st = .behind ∧ isData .adv = true := by
  refine ⟨⟨.adv, rfl⟩, by decide +kernel, by decide, rfl⟩

theorem test_FinFinishesJob : (demo .running).w = some 10 ∧ 9 < 10 ∧ (demo .running).tb.span < 1001 ∧
    ¬(demo .running).tb.span < 1000 ∧ (demo .running).notices.counts.length = 17 ∧ (demo .running).gd.state ≠ .gap ∧
    (demo .running).gd.state ≠ .speechWait := by decide

/-- A tail that is tentative after an overlaid clip, and one that follows no clip of the list. -/
def tailed (placed : List Clip) : DescTrack :=
  { descA with placed := placed, prev := some ⟨48960, -72⟩, tailState := .tentative, points := [⟨48000, -72⟩, ⟨48960, -72⟩] }

def clipC : Clip := { clipA with id := 8, state := .dropped }

/-- At FIN the tail of a clip that ends at 48,960 ends by the end sample, 50,000, not at 63,360, and not before 48,960
(R155). -/
theorem test_fin_tail : (tailed [clipC, clipB, clipC]).placed = [clipC] ++ clipB :: [clipC] ∧
    (clipB.state = .placed ∨ clipB.state = .overlaid) ∧
    (∀ x ∈ [clipC], x.state ≠ .placed ∧ x.state ≠ .overlaid) ∧
    ((tailed [clipB]).finTail 1920000 50000).points = [⟨48000, -72⟩, ⟨48960, -72⟩, ⟨50000, 0⟩] ∧
    ((tailed [clipB]).finTail 1920000 40000).placed.map Clip.release = [some 48960] ∧
    descA.finTail 1920000 50000 = descA := by decide

/-- The tail test of R155: separation is certain beyond 48,960 + 14,400 + 24,000 + 9,600, not at that sample. -/
theorem test_tail_certain : (({ tailed [] with pending := [] }).testTail 1920000 96960).tailState = .tentative ∧
    (({ tailed [] with pending := [] }).testTail 1920000 96961).tailState = .final := by decide

/-- A job on the lane with a frame placed: its abort places reset frames. -/
def laneJob : Job :=
  { demo .held with
    laneSet := { LaneSettings.default with enabled := true }, lane := { (demo .held).lane with next := 32 },
    tracks := (demo .held).tracks.set 2 (some (.text { textA with service := 1, cues := [] })) }

/-- A job whose next segment record waits for room. -/
def stalled : Job :=
  { demo .running with seg := ⟨0, 0, some ⟨0, 0, 50, [⟨kSEGC, 2#8, 0#8, 0#16, []⟩]⟩, true⟩ }

theorem test_AbrtEndsJob : (demo .held).resetFlight 0 = none ∧ (laneJob.resetFlight 0).isSome = true ∧
    8 < (withJob laneJob).freeEntries ∧ (withJob laneJob).anyWaiting = false ∧
    ({ withJob laneJob with store := List.replicate 56 (entry .output) }).ready = true ∧
    ({ withJob laneJob with store := List.replicate 56 (entry .output) }).freeEntries ≤ 8 ∧
    ((withJob laneJob).setJob 1 stalled).ready = true ∧ 8 < ((withJob laneJob).setJob 1 stalled).freeEntries ∧
    ((withJob laneJob).setJob 1 stalled).anyWaiting = true ∧
    (State.reset.setSlot 0 (.restoring ⟨0#16, .short, 1, 1, 0, 0, 0, []⟩)).ready = true := by decide +kernel

theorem test_RlsFreesSlot : (demo .done).state = .done ∧ (demo .running).state ≠ .done := by decide

theorem test_QueriesReportSlot : State.reset.ready = true ∧ State.reset.slot 0 = .free ∧
    (withJob (demo .opened)).ready = true ∧ (withJob (demo .anchorWait)).slot 0 = .job (demo .anchorWait) ∧
    (State.reset.setSlot 0 (.restoring ⟨0#16, .full, 2, 2, 1, 1, 0, []⟩)).ready = true ∧ 63 < (64#8).toNat ∧
    (63#8).toNat ≤ 63 := by decide

/-- The refusals of R49 in their order: none well formed, no TEXT track, a live id, behind the anchor, beyond the span,
behind W, the quota reached, blocks wanting. -/
theorem test_cue_refusals : parseCue [] = none ∧ (demo .running).text? 1 = none ∧ (∃ c ∈ textA.cues, c.id = 5) ∧
    { demo .running with tb := ⟨25, 1, 1000, some 2000⟩ }.judgeCue 1000 2000 = .refuse .late ∧
    (demo .running).judgeCue 40000 41000 = .refuse .beyondSpan ∧ (demo .running).judgeCue 0 400 = .refuse .late ∧
    { demo .running with cueQuota := 1 }.cueQuota ≤ { demo .running with cueQuota := 1 }.cueCount ∧
    ((withJob (demo .running)).setSlot 1 (.restoring ⟨0#16, .full, 2, 2, 4095, 0, 0, []⟩)).freeCues = 0 ∧
    ((withJob (demo .running)).setSlot 1 (.restoring ⟨0#16, .full, 2, 2, 0, 8191, 0, []⟩)).freeBlocks < 1 ∧
    (∃ u ∈ anchoring.untimed, u.isCueOf 0 9 = true) := by decide +kernel

/-- A cue before the list's one cue, and one that starts with it. -/
theorem test_cue_order : (insertCue { cueA with id := 9, startF := 19 } textA.cues).map Cue.id = [9, 5] ∧
    (insertCue { cueA with id := 9 } textA.cues).map Cue.id = [5, 9] := by decide

theorem test_CueIsStored : parseCue (encodeCue ⟨0, 9, 1000, 1010, .top, [0x41#8], none⟩) =
      some ⟨0, 9, 1000, 1010, .top, [0x41#8], none⟩ ∧
    (demo .running).text? 0 = some textA ∧ (∀ c ∈ textA.cues, c.id ≠ 9) ∧
    (demo .running).judgeCue 1000 1010 = .take ⟨25, 26, false, true, false⟩ ∧
    (demo .running).cueRoom 1 (withJob (demo .running)).freeCues (withJob (demo .running)).freeBlocks = none ∧
    (demo .running).seg.emitted < 26 ∧ (∀ u ∈ (demo .anchorWait).untimed, u.isCueOf 0 9 = false) := by decide +kernel

/-- A cue raised to W, and one clamped to the span. -/
theorem test_CueIntervalIsJudged :
    (demo .running).judgeCue 0 1000 = .take ⟨10, 25, true, false, false⟩ ∧
    (demo .running).judgeCue 39000 50000 = .take ⟨975, 1000, false, false, true⟩ := by decide +kernel

/-- The latch at 15 and at 16 records. -/
theorem test_LatchTakesData : isData .cue = true ∧ isData .adv = true ∧
    (List.replicate 15 (requestRecord 0x15#8 (rq 1 []))).length < 16 ∧
    ¬(List.replicate 16 (requestRecord 0x15#8 (rq 1 []))).length < 16 := by decide

theorem test_CrevRemovesCue : parseRevoke (encodeRevoke 0 5) = some (0, 5) ∧ cueA ∈ textA.cues ∧
    (∀ d ∈ textA.cues, d.id = 5 → d = cueA) ∧ ¬cueA.startF < 10 ∧ cueA.startF < 21 ∧
    (∀ c ∈ textA.cues, c.id ≠ 6) := by decide

/-- The numbers 15 and 16 of a revoke's track, and places without a track of its kind (R26, R58, R143). -/
theorem test_revoke_tracks : (15#8).toNat ≤ 15 ∧ 15 < (16#8).toNat ∧ (demo .running).text? 1 = none ∧
    (demo .running).desc? 0 = none ∧
    replyOf (after (.crev (rq 1 [16#8, 0#8, 0#8, 0#8, 5#8])) (withJob (demo .running))) = [17#8] ∧
    replyOf (after (.krev (rq 1 [16#8, 0#8, 0#8, 0#8, 6#8])) (withJob (demo .anchorWait))) = [17#8] := by decide

/-- The refusals of R137 in their order. -/
theorem test_clip_refusals : parseClip [] = none ∧ (demo .running).desc? 0 = none ∧ (∃ c ∈ descA.live, c.id = 7) ∧
    { demo .running with tb := ⟨25, 1, 1000, some 2000⟩ }.judgeClip 1000 1999 960 = .refuse .late ∧
    (demo .running).judgeClip 0 399 960 = .refuse .late ∧
    (demo .running).judgeClip 39990 39990 960 = .refuse .beyondSpan ∧
    64 ≤ { descA with placed := List.replicate 63 clipB }.live.length ∧
    { demo .running with clipQuota := 2 }.clipQuota ≤ { demo .running with clipQuota := 2 }.clipCount ∧
    ((withJob (demo .running)).setSlot 1 (.restoring ⟨0#16, .full, 2, 2, 0, 0, 1022, []⟩)).freeClips = 0 ∧
    (∃ u ∈ anchoring.untimed, u.isClipOf 1 8 = true) := by decide +kernel

theorem test_ClipJoinsPending : parseClip (encodeClip ⟨1, 8, 80, 0, 2000, 960, none⟩) =
      some ⟨1, 8, 80, 0, 2000, 960, none⟩ ∧
    (demo .running).judgeClip 0 2000 960 = .take ⟨19200, 96000, true, false⟩ ∧ (∀ c ∈ descA.live, c.id ≠ 8) ∧
    descA.live.length < 64 ∧ (demo .running).clipRoom (withJob (demo .running)).freeClips = none ∧
    descA.pending.head? = some clipA ∧ 19200 < clipA.d ∧
    (demo .running).judgeClip 2000 2000 960 = .take ⟨96000, 96000, false, false⟩ ∧ clipA.d ≤ 96000 ∧
    (demo .anchorWait).clipRoom (withJob (demo .anchorWait)).freeClips = none := by decide +kernel

/-- A segment that has been ready since a hold: at RSUM a latched LVL that moves no settled point begins nothing (R67), so
a CUE at full quota after it is refused, before the segment frees the cue it would replace. -/
theorem test_latch_begins_nothing :
    (({ demo .running with w := some 100, tracks := (demo .running).tracks.set 1 none } : Job).segmentReady = true) ∧
    (runData .lvl (encodeLvl ⟨0, [⟨0, 0, 0⟩]⟩) 0
      { demo .running with w := some 100, tracks := (demo .running).tracks.set 1 none }
      (withJob { demo .running with w := some 100, tracks := (demo .running).tracks.set 1 none })).s.store = [] ∧
    ((after (.rsum (rq 1 [])) (withJob { demo .held with
      w := some 100, cueQuota := 1, tracks := (demo .held).tracks.set 1 none,
      latch := [requestRecord Kind.lvl.code (rq 1 (encodeLvl ⟨0, [⟨0, 0, 0⟩]⟩)),
        requestRecord Kind.cue.code (rq 1 (encodeCue ⟨0, 9, 5000, 6000, .top, [0x41#8], none⟩))] })).store.filter
      fun e => e.cls == .reply).map (fun e => e.record.body.drop 1) = [[0#8, 2#8, 1#8]] := by decide +kernel

/-- Settled points of the demo's track: min of 19,200 and 48,000 minus the ramp-down, and of a tentative tail's end. -/
theorem test_settled_points : (demo .running).runningPoint descA = 9600 ∧
    (demo .running).runningPoint { descA with prev := some ⟨5000, -72⟩, tailState := .tentative } = 5000 ∧
    (demo .running).runningPoint { descA with pending := [{ clipA with d := 12000 }] } = 2400 := by decide

/-- The first gap is too short, the open gap holds the clip at once. -/
theorem test_PlacedClipFitsGap : fitGaps 30000 none 4800 9000 960 4800 4800
    [⟨0, 960, some 9600, 0, 0⟩, ⟨1, 3840, none, 0, 0⟩] = some (8640, 1) ∧
    fitGaps 30000 none 4800 9000 960 4800 4800
      [⟨0, 960, some 9600, 0, 0⟩, ⟨1, 1920, some 14400, 0, 0⟩, ⟨2, 3840, some 20000, 0, 0⟩] = some (6720, 1) := by decide

/-- The head of the demo's list at a horizon: it waits, fails, finds a gap, or has no start left. -/
theorem test_heads_resolved : (demo .running).desc? 1 = some descA ∧ descA.pending = clipA :: [] ∧
    (max clipA.d (0 + 9600) = 48000 ∧ 48000 ≤ clipA.l) ∧
    fitGaps 0 none 48000 clipA.l clipA.dur 4800 4800 [] = none ∧
    fitGaps 0 none 48000 clipA.l clipA.dur 4800 4800 [⟨3, 0, some 96000, 0, 0⟩] = some (48000, 3) ∧
    clipA.l + clipA.dur + 4800 ≤ 101760 ∧ ¬clipA.l + clipA.dur + 4800 ≤ (demo .running).cls.horizon ∧
    clipA.l < max clipA.d (90000 + 9600) := by decide

/-- A clip of 960 samples that ends at the span end sample adds its ramp and its start alone (R152). -/
theorem test_ends_at_span : (descA.envelope 1920000 1919040 (-72) 1920000).points =
    [⟨1919040 - descA.duck.rampDown, 0⟩, ⟨1919040, -72⟩] := by decide

/-- At FIN the demo's head, with no gap, is overlaid where it ends by the end sample, 49,920 at frame 26, and dropped
where that is 48,000 at frame 25; before FIN it waits (R149 to R151). -/
theorem test_heads_at_fin : (demo .running).resolveHead false 1 = none ∧ (demo .running).resolveHead false 0 = none ∧
    ([26, 25].map fun e => (({ demo .finishing with e := some e }.resolveHead true 1).bind fun b =>
      b.desc? 1).map fun t : DescTrack => (t.placed.map Clip.state, t.pending)) =
      [some ([ClipState.overlaid, .overlaid], []), some ([ClipState.overlaid, .dropped], [])] := by decide +kernel

/-- A separate clip at 48,000, and merges one sample earlier with each relation of the depths; a gain between points. -/
theorem test_envelope_cases : 0 + 14400 + 24000 + 9600 ≤ 48000 ∧ 48000 < 1 + 14400 + 24000 + 9600 ∧
    ({ descA with prev := some ⟨0, -48⟩, tailState := .tentative }.envelope 100000 48000 (-48) 48960).points =
      [⟨14400, 0⟩, ⟨38400, 0⟩, ⟨48000, -48⟩, ⟨48960, -48⟩] ∧
    ({ descA with prev := some ⟨1, -48⟩, tailState := .tentative }.envelope 100000 48000 (-72) 48960).points =
      [⟨38400, -48⟩, ⟨48000, -72⟩, ⟨48960, -72⟩] ∧
    { descA with points := [⟨38400, 0⟩, ⟨48000, -48⟩] }.gainAt 43200 = -24 := by decide

theorem test_KrevRemovesClip : parseRevoke (encodeRevoke 1 6) = some (1, 6) ∧ (∃ c ∈ descA.placed, c.id = 7) ∧
    (∀ c ∈ descA.placed, c.id ≠ 6) ∧ descA.pending = clipA :: [] ∧ clipA.id = 6 ∧
    (∀ c ∈ descA.placed, c.id ≠ 8) ∧ (∀ c ∈ descA.pending, c.id ≠ 8) ∧
    (∃ c ∈ [{ clipA with id := 9, d := 50000 }], c.id = 9) := by decide

theorem test_LvlProcessesWindows : parseLvl (encodeLvl ⟨2, [⟨0, 0, 0⟩]⟩) = some ⟨2, [⟨0, 0, 0⟩]⟩ ∧
    ((demo .running).splitLvl 2 1).beyond < 2 ^ 32 ∧ (demo .running).cls.levelsSeen = false := by decide

/-! ### Bodies out of their ranges (R196), at the ends of each range -/

theorem test_jopn_ranges :
    (parseJopn (encodeJopn { fields25 with cueQuota := some 16, clipQuota := some 1024 })).isSome = true ∧
    parseJopn (encodeJopn { fields25 with cueQuota := some 15 }) = none ∧
    parseJopn (encodeJopn { fields25 with cueQuota := some 4097 }) = none ∧
    parseJopn (encodeJopn { fields25 with clipQuota := some 3 }) = none ∧
    parseJopn (encodeJopn { fields25 with clipQuota := some 1025 }) = none ∧
    parseJopn (encodeJopn { fields25 with span := some 0 }) = none ∧
    parseJopn (8#8 :: (encodeJopn fields25).drop 1) = none := by decide

theorem test_duck_ranges : (parseDuck (encodeDuck ⟨1, some 160, some 80, none, none, none, none, none, none, none⟩)).isSome ∧
    parseDuck (encodeDuck ⟨1, some 7, none, none, none, none, none, none, none, none⟩) = none ∧
    parseDuck (encodeDuck ⟨1, none, some 81, none, none, none, none, none, none, none⟩) = none ∧
    parseDuck (encodeDuck ⟨1, none, none, none, none, some 96001, none, none, none, none⟩) = none ∧
    parseDuck ([1#8, 1#8, 0#8] ++ List.replicate 26 0#8 ++ [2#8]) = none ∧
    parseDuck ([1#8, 2#8, 0#8] ++ List.replicate 27 0#8) = none := by decide

theorem test_cue_ranges : parseCue (encodeCue ⟨0, 9, 1000, 999, .top, [0x41#8], none⟩) = none ∧
    parseCue (encodeCue ⟨0, 9, 1000, 1000, .top, [], none⟩) = none ∧
    parseCue ((encodeCue ⟨0, 9, 1000, 1000, .top, [0x41#8], none⟩).set 13 2#8) = none ∧
    parseCue (encodeCue ⟨0, 9, 1000, 1000, .top, [0x41#8], none⟩ ++ [0x42#8]) = none := by decide

theorem test_clip_ranges : (parseClip (encodeClip ⟨1, 8, 80, 0, 0, 2880000, some 160⟩)).isSome = true ∧
    parseClip (encodeClip ⟨1, 8, 80, 1, 0, 960, none⟩) = none ∧ parseClip (encodeClip ⟨1, 8, 80, 0, 0, 479, none⟩) = none ∧
    parseClip (encodeClip ⟨1, 8, 80, 0, 0, 960, some 7⟩) = none := by decide

theorem test_lvl_ranges : (parseLvl (encodeLvl ⟨2, List.replicate 32 ⟨0, 0, 0⟩⟩)).isSome = true ∧
    parseLvl (encodeLvl ⟨2, []⟩) = none ∧ parseLvl (encodeLvl ⟨2, List.replicate 33 ⟨0, 0, 0⟩⟩) = none := by decide

theorem test_WindowIsClassified : DetSettings.default.thresholds.length = 8 ∧ DetSettings.default.speech = 4 ∧
    risesStrictly DetSettings.default.thresholds = true := by decide

/-- The window of 180, 170 and 150 under the default settings: match vector T0 to T3, quiet, mixed, masked vector
T2 and T3 (6.3). -/
theorem test_one_window_classified :
    DetSettings.default.matchVector ⟨180, 170, 150⟩ = 0x0F#8 ∧ DetSettings.default.isLoud 0x0F#8 = false ∧
    DetSettings.default.isMixed ⟨180, 170, 150⟩ = true ∧ DetSettings.default.masked 0x0F#8 = 0x0C#8 := by decide

/-- A job in GAP_WAIT one window short of its debounce, and one in SPEECH_WAIT. -/
def gapWait : Job :=
  { demo .running with gd := { (demo .running).gd with state := .gapWait, quietCount := 14, quietStart := some 3 } }

def speechWait : Job :=
  { demo .running with
    gd := { (demo .running).gd with state := .speechWait, loudCount := 2, loudStart := some 30, recorded := true, nextGap := 1 },
    gaps := [] ++ [⟨0, 2880, none, 0, 0⟩] }

/-- Each state of the detector with what its rows ask: a gap open, recorded or not, and rising lists. -/
def inGap (recorded : Bool) : Job :=
  { demo .running with
    gd := { (demo .running).gd with state := .gap, recorded := recorded, nextGap := 2 },
    gaps := [⟨0, 2880, some 9600, 0, 0⟩] ++ (if recorded then [⟨1, 19200, none, 65535, 0⟩] else []) }

theorem test_detector_rows : (demo .running).gd.state = .unsettled ∧ (inGap true).gd.state = .gap ∧
    (inGap true).gaps = [⟨0, 2880, some 9600, 0, 0⟩] ++ [⟨1, 19200, none, 65535, 0⟩] ∧
    (inGap true).gapsRise 40 = true ∧ (inGap false).gapsRise 40 = true ∧ speechWait.gapsRise 32 = true ∧
    gapWait.gapsRise 17 = true ∧
    ((inGap true).detect 40 false false true).gaps = (inGap true).gaps ∧
    (({ inGap true with det := { DetSettings.default with speechDebounce := 1 } }).detect 40 true false false).gaps =
      [⟨0, 2880, some 9600, 0, 0⟩, ⟨1, 19200, some 38400, 65535, 0⟩] ∧
    (({ demo .running with det := { DetSettings.default with gapDebounce := 1 } }).detect 7 false false true).gaps =
      [⟨0, 6720, none, 1, 0⟩] := by decide

/-- At FIN the open gap of SPEECH_WAIT ends at the loud run's start (R127, R128), and GAP_CLOSED is counted. -/
theorem test_fin_closes_gap : (speechWait.finish 10).gaps = [⟨0, 2880, some 28800, 0, 0⟩] ∧
    (speechWait.finish 10).notices.counts.getD 8 0 = 1 ∧ speechWait.gaps = [] ++ [⟨0, 2880, none, 0, 0⟩] := by decide +kernel

theorem test_GapOpensAndCloses : gapWait.det.gapDebounce ≤ gapWait.gd.quietCount + 1 ∧ gapWait.gaps.length < 64 ∧
    gapWait.gd.quietStart = some 3 ∧ 1 + 1 < gapWait.det.gapDebounce ∧
    speechWait.det.speechDebounce ≤ speechWait.gd.loudCount + 1 ∧ speechWait.gd.recorded = true ∧
    64 ≤ (List.replicate 64 (⟨0, 0, some 960, 0, 0⟩ : Gap)).length := by decide

theorem test_AdvMovesWatermark : (demo .running).w = some 10 ∧ ¬10 < 10 ∧ (2 ^ 32 - 1 : Nat) < 2 ^ 32 ∧
    (demo .running).e = none ∧ { demo .finishing with e := some 60 }.segmentReady = false ∧
    { demo .finishing with e := some 60, tracks := Vector.replicate 16 none }.segmentReady = true := by decide

/-- An emission's producer states: none in flight, one in flight with and without more records to come, one waiting;
and a part with room, with too little, and with a claimant waiting. -/
theorem test_emission_begins : (demo .running).seg.flight = none ∧ (demo .running).seg.wait = false ∧
    { demo .finishing with e := some 60, tracks := Vector.replicate 16 none }.segmentReady = true ∧ stalled.seg.wait = true ∧
    (stalled.seg.flight.map fun fl => fl.todo.length) = some 1 ∧
    (stalled.seg.flight.map fun fl => { fl with todo := fl.todo ++ fl.todo }).any (fun fl => fl.todo.length == 2) ∧
    (withJob (demo .running)).roomNow = true ∧
    ({ withJob (demo .running) with store := List.replicate 56 (entry .output) }).roomNow = false ∧
    ((withJob (demo .running)).setJob 1 stalled).roomNow = false := by decide

/-- An emission whose records find no room waits and counts OUTPUT_STALLED once (R190). -/
theorem test_emission_waits :
    ((({ withJob { demo .finishing with e := some 60, tracks := Vector.replicate 16 none } with
        store := List.replicate 56 (entry .output) } : State).pumpSegments 0 4).job? 0).map
      (fun b => (b.seg.wait, b.notices.counts.getD 16 0)) = some (true, 1) := by decide +kernel

/-- The worked lane of 8.4: n = 1,081 and L = 120 make 32 frames ready at W = 1,232, and no batch one frame before. -/
def laneAt (st : JobState) (w n : Nat) : Job :=
  { laneJob with state := st, w := some w, lane := { laneJob.lane with next := n } }

theorem test_batch_ready : (laneAt .running 1232 1081).batchFrames = 32 ∧ (laneAt .running 1231 1081).batchFrames = 0 ∧
    (laneAt .running 2000 1081).batchFrames = 128 ∧
    { laneAt .finishing 1000 900 with e := some 1000 }.batchFrames = 100 ∧
    { laneAt .finishing 1000 1000 with e := some 1000 }.laneCloses = true ∧
    (laneAt .holding 1232 1081).batchFrames = 0 ∧ laneJob.laneSet.enabled = true ∧ laneJob.lane.closed = false := by decide

/-- The closing of 5.8: services 1 and 3 display at P = 4, so one frame of two CLEAR pairs from E = 5,000. -/
theorem test_lane_closes :
    (({ laneAt .finishing 5000 5000 with
        e := some 5000,
        laneSet := { LaneSettings.default with enabled := true, symbols := 4, parity := .none },
        tracks := #v[some (.text { textA with service := 1 }), some (.text { textA with service := 2 }),
          some (.text { textA with service := 3 }), none, none, none, none, none, none, none, none, none, none, none,
          none, none],
        lane := { (laneAt .finishing 5000 5000).lane with
          services := [⟨some ⟨1, 6000⟩, none⟩, ⟨none, some ⟨5, none⟩⟩, ⟨some ⟨3, 6000⟩, none⟩, ⟨none, none⟩] } }
      : Job).closeLane 6).lane.flight.map (fun fl => (fl.frames, fl.record.body.drop 7)) =
      some (1, [0x10#8, 0x42#8, 0x12#8, 0x42#8]) := by decide +kernel

theorem test_ParkWritesContext : (demo .held).cueCount ≠ 0 ∧ (demo .held).cueCount ≤ 64 ∧ (demo .held).clipCount ≤ 64 ∧
    64 < { demo .held with untimed := List.replicate 65 (.clip ⟨1, 0, 0, 0, 0, 480, none, 0⟩) }.clipCount := by decide

/-- With 56 entries held the parts of the park wait, and OUTPUT_STALLED is counted. -/
theorem test_park_waits : ((after (.park (rq 1 []))
      { withJob (demo .held) with store := List.replicate 56 (entry .output) }).job? 0).map
      (fun b => (b.park.map fun p => (p.todo.length, p.wait), b.notices.counts.getD 16 0)) =
    some (some (1, true), 1) := by decide +kernel

/-! A restoration: the context of a HELD job without stored material, and one cut off after its block. -/

/-- A HELD job with nothing stored, at no progress. -/
def bare : Job :=
  { demo .held with
    w := some 0,
    tracks := #v[some (.text { textA with cues := [] }), none, none, none, none, none, none, none, none, none, none,
      none, none, none, none, none] }

def shortBytes : List Byte := contextBytes 0 0#16 .short bare

/-- The same block announcing one cue. -/
def cutBytes : List Byte := blockBytes 0 0#16 .full { bare with tracks := (demo .held).tracks.set 1 none }

def assembly (f : Form) (parts : Nat) : Assembly := ⟨0#16, f, parts, 1, 0, 0, 0, []⟩

/-- A reading that is whole and passes the whole-context test. -/
def readsWhole (f : Form) : Option Read → Bool
  | some (.go r) => r.rest.isEmpty && r.ok f
  | _ => false

/-- A reading that waits for more bytes. -/
def readsOn : Option Read → Bool
  | some (.stop _) => true
  | _ => false

theorem test_unpk_whole : readsWhole .short (readContext (State.reset.limits 0) 0#16 .short shortBytes) = true := by
  decide +kernel

/-- A reading that is whole. -/
def readsTo : Option Read → Bool
  | some (.go _) => true
  | _ => false

/-- A reading that fails with a status. -/
def fails (st : Status) : Option Read → Bool
  | some (.fail x) => x == st
  | _ => false

theorem test_unpk_inner_whole :
    readsTo (readContext (State.reset.limits 0) 0#16 .full (contextBytes 0 0#16 .full bare)) = true := by decide +kernel

/-- A block of zeros is out of range; a cue that no pool can hold; a clip that ends beyond the span, and a gap. -/
theorem test_unpk_fails : fails .badContext (readContext (State.reset.limits 0) 0#16 .full (List.replicate 416 0#8)) = true ∧
    fails .poolFull (readContext ⟨0, 0, 0⟩ 0#16 .full (contextBytes 0 0#16 .full (demo .held))) = true ∧
    fails .badContext (readContext (State.reset.limits 0) 0#16 .full (contextBytes 0 0#16 .full
      { demo .held with tracks := (demo .held).tracks.set 1 (some (.desc { descA with
        pending := [{ clipA with l := 1919041 }] })) })) = true ∧
    fails .badContext (readContext (State.reset.limits 0) 0#16 .full (contextBytes 0 0#16 .full
      { bare with gaps := [⟨0, 1920960, none, 0, 0⟩] })) = true := by decide +kernel

/-- One entry more than the quota, or than the pools hold; a SHORT context whose block names a cue (assumption 56). -/
theorem test_unpk_full : fails .quotaFull (readCues ⟨9, 9, 9⟩ 1
      ⟨{ demo .held with cueQuota := 0 }, [], [], [], [], 0, cueBytes 0 cueA⟩) = true ∧
    fails .poolFull (readCues ⟨9, 0, 9⟩ 1 ⟨demo .held, [], [], [], [], 0, cueBytes 0 cueA⟩) = true ∧
    fails .quotaFull (readClips ⟨9, 9, 9⟩ 1
      ⟨{ demo .held with clipQuota := 0 }, [], [], [], [], 0, clipBytes 1 clipA⟩) = true ∧
    fails .badContext (readContext (State.reset.limits 0) 0#16 .short (blockBytes 0 0#16 .short (demo .held))) = true := by
  decide +kernel

/-- The same clip and gap at the span's end, sample 1,920,000, are read. -/
theorem test_unpk_reaches_span :
    readsTo (readContext (State.reset.limits 0) 0#16 .full (contextBytes 0 0#16 .full
      { demo .held with tracks := (demo .held).tracks.set 1 (some (.desc { descA with
        pending := [{ clipA with l := 1919040 }] })) })) = true ∧
    readsTo (readContext (State.reset.limits 0) 0#16 .full (contextBytes 0 0#16 .full
      { bare with gaps := [⟨0, 1918080, some 1920000, 0, 0⟩] })) = true := by decide +kernel

theorem test_unpk_inner : readsOn (readContext (State.reset.limits 0) 0#16 .full cutBytes) = true := by decide +kernel

/-- The block names its serial: under another one it is refused (assumption 37). -/
theorem test_unpk_other_serial : readsWhole .short (readContext (State.reset.limits 0) 1#16 .short shortBytes) = false ∧
    readsOn (readContext (State.reset.limits 0) 1#16 .full cutBytes) = false := by decide +kernel

/-- An UNPK body: the header of part 1, then context bytes and what follows them. -/
def unpkBody (form parts : Byte) (bytes check : List Byte) : List Byte :=
  [0#8, 0#8, form, 1#8, parts] ++ (bytes ++ check)

theorem test_unpk_header (bytes check : List Byte) :
    parseUnpk (unpkBody 0#8 1#8 bytes check) = some ⟨0, 0, 1, 1⟩ ∧
    parseUnpk (unpkBody 1#8 2#8 bytes check) = some ⟨0, 1, 1, 2⟩ := by
  simp [parseUnpk, unpkBody, field, natOfBytes]

theorem test_unpk_chunk (form parts : Byte) (bytes check : List Byte) :
    (assembly .short 1).bytes ++ (unpkBody form parts bytes check).drop 5 = bytes ++ check ∧
    (2 ≤ check.length → 2 ≤ ((unpkBody form parts bytes check).drop 5).length) := by
  simp only [assembly, unpkBody, List.nil_append]
  exact ⟨rfl, fun h => by simp; omega⟩

theorem test_unpk_ready : (State.reset.setSlot 0 (.restoring (assembly .short 1))).ready = true ∧
    State.reset.limits 0 = (State.reset.setSlot 0 (.restoring (assembly .short 1))).limits 0 := by decide

theorem test_UnpkRestoresJob :
    (∃ rd, readContext (State.reset.limits 0) 0#16 .short shortBytes = some (.go rd) ∧ rd.rest = [] ∧
      rd.build.restorable .short rd.cues rd.clips) ∧
    (∃ rd, readContext (State.reset.limits 0) 0#16 .full cutBytes = some (.stop rd)) ∧
    (assembly .short 1).expects ⟨0, 0, 1, 1⟩ false = true ∧ (assembly .full 2).expects ⟨0, 1, 1, 2⟩ true = true ∧
    (assembly .full 2).expects ⟨0, 1, 2, 2⟩ true = false ∧ CtxHeader.begins ⟨0, 0, 2, 1⟩ false = none ∧
    CtxHeader.begins ⟨0, 0, 1, 1⟩ false = some (assembly .short 1) ∧
    CtxHeader.begins ⟨0, 1, 1, 2⟩ true = some (assembly .full 2) ∧ (assembly .full 2).next ≠ (assembly .full 2).parts ∧
    State.reset.slot 0 = .free ∧ (cutBytes.take 415).length < 416 := by
  refine ⟨?_, ?_, by decide, by decide, by decide, by decide, by decide, by decide, by decide, by decide,
    by decide +kernel⟩
  · have h := test_unpk_whole
    revert h
    unfold readsWhole
    split
    · next r he =>
      intro h
      rw [Bool.and_eq_true, List.isEmpty_iff] at h
      exact ⟨r, he, h.1, (reading_ok_iff _ _).1 h.2⟩
    · intro h; cases h
  · have h := test_unpk_inner
    revert h
    unfold readsOn
    split
    · next r he => intro _; exact ⟨r, he⟩
    · intro h; cases h

/-- An UNPK body too short for a header: at a FREE slot no field, at a RESTORING one serial 0 and a part number of FFh. -/
theorem test_unpk_no_header : (rq 1 [0#8, 0#8, 0#8, 1#8]).body.length < 5 ∧
    replyOf (after (.unpk (rq 1 [0#8, 0#8, 0#8, 1#8])) State.reset) = [29#8] ∧
    replyOf (after (.unpk (rq 1 [])) (State.reset.setSlot 0 (.restoring (assembly .full 2)))) =
      [29#8, 0#8, 0#8, 0xFF#8] := by decide

/-- The first of two parts is the one a fresh assembly expects: serial, form, count and number agree, more parts follow. -/
theorem test_expected_part :
    let a := assembly .full 2
    let h : CtxHeader := ⟨0, 1, 1, 2⟩
    h.serial = a.serial.toNat ∧ h.form = (if a.form = .full then 1 else 0) ∧ h.parts = a.parts ∧ h.part = a.next ∧
      (true = false ↔ h.part = a.parts) := by decide

theorem test_NclrReadsAndClears : (demo .running).notices.counts.length = 17 ∧
    (0x00010000#32 : KindSet) &&& ~~~eventSet = 0#32 ∧ (0x00020000#32 : KindSet) &&& ~~~eventSet ≠ 0#32 ∧
    State.reset.device.counts.length = 6 ∧ (0x01000000#32 : KindSet) &&& ~~~alertSet = 0#32 ∧
    (0x40000000#32 : KindSet) &&& ~~~alertSet ≠ 0#32 := by decide

theorem test_DrstResetsDevice : (withJob (demo .running)).phase = .run ∧ (withJob (demo .running)).inbound = [] ∧
    (withJob (demo .running)).abort = none := by decide

theorem test_UnknownKindAnswered : requestCodes.contains (0x0F#8 : Byte).toNat = false ∧
    requestCodes.contains (0x22#8 : Byte).toNat = false ∧ State.reset.ready = true ∧ Kind.ofCode 0x0F#8 = none := by decide

/-- A full store keeps a record in the queue; the queue at 31 and at 32 records. -/
def paused (n : Nat) : State :=
  { State.reset with store := List.replicate 64 (entry .reply),
                     inbound := List.replicate n (requestRecord 0x20#8 (rq 0 [])) }

theorem test_PausedDispatchKeepsRecord : (paused 31).notesSettled = true ∧
    (paused 31).mayTake (requestRecord 0x20#8 (rq 0 [])) = false ∧ (paused 31).inbound.length < 32 ∧
    ¬(paused 32).inbound.length < 32 := by decide

/-- A record may be taken: with an entry free and no PARK reply; with one and 7 replies, not with 8; a DRST then too. -/
theorem test_mayTake :
    let park := { entry .reply with unfinished := true }
    let hold := requestRecord Kind.hold.code (rq 1 [])
    State.reset.mayTake hold = true ∧
    ({ State.reset with store := park :: List.replicate 6 (entry .reply) }).mayTake hold = true ∧
    ({ State.reset with store := park :: List.replicate 7 (entry .reply) }).mayTake hold = false ∧
    ({ State.reset with store := park :: List.replicate 7 (entry .reply) }).mayTake (requestRecord Kind.drst.code (rq 0 [])) = true ∧
    ({ State.reset with inbound := [hold] }).notesSettled = true ∧ State.reset.ready = true := by decide

theorem test_CharacterAdvancesFramer : State.reset.phase = .run ∧ State.reset.roomDue = false ∧
    crc [0x31#8, 0x32#8, 0x33#8, 0x34#8, 0x35#8, 0x36#8, 0x37#8, 0x38#8, 0x39#8] = (0x29#8 : Byte) ++ (0xB1#8 : Byte) := by
  decide +kernel

theorem test_LinkErrorsAbandon : ({ State.reset with framer := .header [] } : State).framer ≠ .hunt ∧
    ({ State.reset with rx := .stopLow } : State).rx = .stopLow ∧ (State.reset.alert .check).device.counts = [0, 0, 1, 0, 0, 0] ∧
    (State.reset.alert .check).device.pending = true := by decide

theorem test_ResetLinePhases : ({ State.reset with phase := .low } : State).phase = .low ∧
    ({ State.reset with phase := .init } : State).phase ≠ .run ∧ ({ State.reset with phase := .init } : State).inbound = [] ∧
    (paused 30).rdyOut = true ∧ (paused 31).rdyOut = false := by decide

theorem test_ReadyLineStartsTransmitter : chooseEntry [] = none ∧
    chooseEntry [entry .output, entry .alert] = some (entry .alert, [entry .output]) ∧
    chooseEntry [{ entry .reply with unfinished := true }, entry .reply, entry .note] =
      some (entry .note, [{ entry .reply with unfinished := true }, entry .reply]) := by decide

/-- A park whose last part is being sent, its reply unfinished in the store. -/
def parking : Job := { demo .parking with park := some ⟨4#16, .full, 1, 1, [], 0, false⟩ }

def sending : State :=
  { withJob parking with
    store := [{ entry .reply with unfinished := true, owner := some 0 }],
    tx := some ⟨{ entry .output with owner := some 0, lastPart := true }, true, []⟩ }

/-- The abort of that job finishes its PARK reply: ABORTED, serial 4, FULL, 1 part placed, none discarded (R38, R169). -/
theorem test_abort_park : parking.park = some ⟨4#16, .full, 1, 1, [], 0, false⟩ ∧
    (sending.abortPark 0 parking).store.map (fun e => (e.unfinished, e.record.body)) =
      [(false, [31#8, 0#8, 4#8, 1#8, 1#8, 0#8])] := by decide

theorem test_TransmissionEnds : sending.phase = .run ∧ sending.inbound = [] ∧ sending.notesSettled = true ∧
    sending.tx.isSome = true ∧ sending.slot 0 = .job parking ∧ parking.park.isSome = true := by decide

/-- Records being sent whose end leads to nothing but dispatch: one detached by a reset, a reply, a NOTE of a job. -/
def sendingOther (holds : Bool) (c : OutClass) (owner : Option (Fin 8)) : State :=
  { withJob (demo .running) with
    inbound := [requestRecord Kind.dqry.code (rq 0 [])], tx := some ⟨{ entry c with owner := owner }, holds, []⟩ }

/-- The record that waits is answered (R180). -/
theorem test_dispatch_resumes : (sendingOther true .note (some 0)).notesSettled = true ∧
    ([sendingOther false .output none, sendingOther true .reply none, sendingOther true .note (some 0)].map fun s =>
      ((after .recordTransmitted s).inbound, (after .recordTransmitted s).store.length)) = List.replicate 3 ([], 1) ∧
    ((sendingOther true .note (some 0)).setJob 1 stalled).anyWaiting = true := by decide +kernel

/-- A job at its end whose last output record is being sent, and one that has a clip to resolve. -/
def ending : Job := { demo .finishing with e := some 0, tracks := (demo .finishing).tracks.set 1 none }

def sendingLast (b : Job) : State :=
  { withJob b with tx := some ⟨{ entry .output with owner := some 0 }, true, []⟩ }

theorem test_job_ends : (sendingLast ending).listening ∧ (sendingLast ending).notesSettled = true ∧
    ending.seg.emitted = ending.e.getD 0 ∧ ending.seg.flight = none ∧ ending.laneSet.enabled = false ∧
    (∀ i, ending.desc? i = none) ∧ (sendingLast ending).store = [] ∧
    ((after .recordTransmitted (sendingLast ending)).job? 0).map Job.state = some .done ∧
    ((after .recordTransmitted (sendingLast (demo .finishing))).job? 0).map Job.state = some .finishing := by
  refine ⟨⟨rfl, rfl⟩, by decide, rfl, rfl, rfl, by decide, rfl, by decide +kernel, by decide +kernel⟩

/-- Slot 1's job with a producer waiting and room due to it. -/
def due (b : Job) : State := { withJob b with roomDue := true }

def outRec : LinkRecord := ⟨kSEGC, 1#8, 0#8, 0#16, []⟩

def segWaits : Job := { demo .holding with seg := ⟨0, 0, some ⟨0, 0, 50, [outRec]⟩, true⟩ }

def segGoesOn : Job := { demo .running with seg := ⟨0, 0, some ⟨0, 0, 50, [outRec, outRec]⟩, true⟩ }

def laneWaits (k : LaneKind) : Job :=
  { laneJob with
    state := .finishing,
    lane := { laneJob.lane with wait := true, flight := some ⟨k, 1, outRec, ⟨0, [], [], 0, 0⟩⟩ } }

def partWaits : Job := { demo .parking with park := some ⟨4#16, .full, 2, 1, [outRec], 0, true⟩ }

def noteWaits (n : Nat) : Job :=
  { demo .running with
    notices := { (demo .running).notices with counts := n :: List.replicate 16 0, wait := true, pending := true } }

theorem test_WaitingOutputIsPlaced : (due segWaits).turn = some (0, .segmenter) ∧
    (due segGoesOn).turn = some (0, .segmenter) ∧ segWaits.state = .holding ∧ segWaits.lane.flight = none ∧
    (due (laneWaits .batch)).turn = some (0, .lane) ∧ (due (laneWaits .closing)).turn = some (0, .lane) ∧
    (due (laneWaits .reset)).turn = some (0, .lane) ∧ (due partWaits).turn = some (0, .context) ∧
    (due segWaits).phase = .run ∧ (due segWaits).roomDue = true ∧ (due segWaits).abort = none := by decide

/-- While the ABRT of slot 2's job waits, output of slot 1's job is still sent and placed. -/
theorem test_other_abort_waits :
    let w : AbortWait := ⟨1, requestRecord Kind.abrt.code (rq 2 []), .running, 0⟩
    w.slot ≠ 0 ∧ ({ due (laneWaits .batch) with abort := some w }).turn = some (0, .lane) ∧
    ((after .recordTransmitted { sendingLast ending with abort := some w }).job? 0).map Job.state = some .done := by
  decide +kernel

theorem test_WaitingNoteIsPlaced : (due (noteWaits 1)).turn = some (0, .notice) ∧
    (due (noteWaits 0)).turn = some (0, .notice) ∧
    ({ State.reset with roomDue := true, device := ⟨[0, 0, 0, 0, 0, 1], alertSet, true, true, 0#16⟩ } : State).turn =
      some (8, .notice) ∧
    ({ State.reset with roomDue := true, device := ⟨[0, 0, 0, 0, 0, 0], alertSet, true, true, 0#16⟩ } : State).turn =
      some (8, .notice) := by decide

/-- HELD, enabled, makes a NOTE pend at its first count, CUE_CLIPPED, masked, does not, and neither does a count above 0
(R189, R191). -/
theorem test_counts_pend :
    let n := (demo .running).notices
    (n.report eventBase 14 1).pending = true ∧ (n.report eventBase 0 1).pending = false ∧
    ({ n with counts := n.counts.set 14 254 }.report eventBase 14 3).pending = false ∧
    ({ n with counts := n.counts.set 14 254 }.report eventBase 14 3).counts.getD 14 0 = 255 := by decide

/-- A job's NOTE that an event has made pending: placed with 9 entries free, waiting with 8 (R182, R191). -/
def notePends (taken : Nat) : State :=
  { withJob { demo .running with notices := ((demo .running).notices.report eventBase 14 1) } with
    store := List.replicate taken (entry .reply) }

theorem test_note_placed_or_waits : (notePends 55).freeEntries = 9 ∧ (notePends 55).turn = none ∧
    ((notePends 55).noteJob 0).store.length = 56 ∧ (notePends 56).freeEntries = 8 ∧
    ((notePends 56).noteJob 0).store.length = 56 ∧
    (((notePends 56).noteJob 0).job? 0).map (fun b => b.notices.wait) = some true := by decide

/-- A caption of frames 6 to 14 with one row, as service 2 works on it (5.6). -/
def caption21 : Caption :=
  { id := 21, startF := 6, endF := 14, steps := [.load, .row 1, .text 0x4E#8 0x4F#8] }

def service2 (d : Option Shown) (l : Option LoadWork) (pending : List Caption) : ServiceWork :=
  { service := 2, displayed := d, loading := l, pending := pending }

def slotOfFrame (f current : Nat) (v : ServiceWork) : List SlotPair :=
  ((⟨current, [v], [], 0, 0⟩ : LaneWork).frame { LaneSettings.default with lookahead := 10 } f).1

/-- The frames of 5.6: LOAD, ROW, text, SHOW, CLEAR, RESUME and FILL. -/
theorem test_LaneFramesFillSlots : LaneSettings.default.symbols = 2 ∧
    ({ LaneSettings.default with symbols := 4 } : LaneSettings).symbols = 4 ∧
    slotOfFrame 0 0 (service2 none none [caption21]) = [(0x11#8, 0x40#8)] ∧
    slotOfFrame 1 2 (service2 none (some ⟨caption21, some 1⟩) []) = [(0x11#8, 0x51#8)] ∧
    slotOfFrame 2 2 (service2 none (some ⟨caption21, some 2⟩) []) = [(0x4E#8, 0x4F#8)] ∧
    slotOfFrame 2 1 (service2 none (some ⟨caption21, some 2⟩) []) = [(0x11#8, 0x44#8)] ∧
    slotOfFrame 6 1 (service2 none (some ⟨caption21, none⟩) []) = [(0x11#8, 0x41#8)] ∧
    slotOfFrame 30 2 (service2 (some ⟨22, 30⟩) none []) = [(0x11#8, 0x42#8)] ∧
    slotOfFrame 14 2 (service2 none (some ⟨caption21, none⟩) []) = [(0x00#8, 0x00#8)] ∧
    slotOfFrame 2 2 (service2 (some ⟨20, 3⟩) (some ⟨caption21, some 2⟩) []) = [(0x4E#8, 0x4F#8)] := by decide

/-- Two services due in one frame: at P = 2 the first alone is served, at P = 4 both, in service order (R98, R99). -/
def bothDue : LaneWork :=
  ⟨1, [⟨1, some ⟨20, 3⟩, none, []⟩, ⟨2, none, some ⟨caption21, none⟩, []⟩], [], 0, 0⟩

theorem test_two_services_due : (bothDue.frame LaneSettings.default 6).1 = [(0x10#8, 0x42#8)] ∧
    (bothDue.frame { LaneSettings.default with symbols := 4 } 6).1 = [(0x10#8, 0x42#8), (0x11#8, 0x41#8)] ∧
    chooseService 3 120 0 [⟨2, none, none, [caption21]⟩] = some (6, 2) ∧
    chooseService 6 120 1 bothDue.services = none := by decide

/-- Bytes of 11.8 under ODD and EVEN. -/
theorem test_parity : [0x00#8, 0x10#8, 0x41#8].map (parityByte .odd) = [0x80#8, 0x10#8, 0xC1#8] ∧
    [0x00#8, 0x10#8, 0x41#8].map (parityByte .even) = [0x00#8, 0x90#8, 0x41#8] := by decide

end Sys2Proof.Tests
end

section
/-! PROOFS. Programme time: rounding half up, the frame of a programme time (R5), the first sample of a frame (R8). -/

namespace Sys2Proof.Machine

/-! ### Rounding half up -/

/-- The quotient a / b rounded half up, in the floor form that R5, R7 and R8 share. -/
def roundHalfUp (a b : Nat) : Nat := (2 * a + b) / (2 * b)

/-- The rounded quotient is the one number within half a unit of a / b, the lower half included. -/
theorem roundHalfUp_eq_iff {a b r : Nat} (hb : 0 < b) :
    roundHalfUp a b = r ↔ 2 * r * b ≤ 2 * a + b ∧ 2 * a < (2 * r + 1) * b := by
  rw [roundHalfUp, Nat.div_eq_iff (by omega)]
  have hlow : r * (2 * b) = 2 * r * b := by ring
  have hhigh : (2 * r + 1) * b = 2 * r * b + b := by ring
  omega

theorem roundHalfUp_bounds (a : Nat) {b : Nat} (hb : 0 < b) :
    2 * roundHalfUp a b * b ≤ 2 * a + b ∧ 2 * a < (2 * roundHalfUp a b + 1) * b :=
  (roundHalfUp_eq_iff hb).1 rfl

theorem roundHalfUp_mono (b : Nat) : Monotone fun a => roundHalfUp a b :=
  fun _ _ h => Nat.div_le_div_right (by omega)

/-- Whole units pass through the rounding. -/
theorem roundHalfUp_add_mul (a k : Nat) {b : Nat} (hb : 0 < b) :
    roundHalfUp (a + k * b) b = roundHalfUp a b + k := by
  have hsum : 2 * (a + k * b) + b = 2 * a + b + k * (2 * b) := by ring
  rw [roundHalfUp, hsum, Nat.add_mul_div_right _ _ (by omega), roundHalfUp]

theorem roundHalfUp_mul (k : Nat) {b : Nat} (hb : 0 < b) : roundHalfUp (k * b) b = k := by
  have hzero : roundHalfUp 0 b = 0 := (roundHalfUp_eq_iff hb).2 (by omega)
  simpa [hzero] using roundHalfUp_add_mul 0 k hb

/-- An exact half goes up. -/
theorem roundHalfUp_of_half {a b k : Nat} (hb : 0 < b) (h : 2 * a = (2 * k + 1) * b) : roundHalfUp a b = k + 1 :=
  (roundHalfUp_eq_iff hb).2 (by constructor <;> linarith)

/-- An increase by at least k units raises the rounded quotient by at least k. -/
theorem roundHalfUp_add_le {c k : Nat} (a : Nat) {b : Nat} (hb : 0 < b) (h : k * b ≤ c) :
    roundHalfUp a b + k ≤ roundHalfUp (a + c) b := by
  rw [← roundHalfUp_add_mul a k hb]
  exact roundHalfUp_mono b (Nat.add_le_add_left h a)

/-- An increase by at most k units raises the rounded quotient by at most k. -/
theorem roundHalfUp_le_add {c k : Nat} (a : Nat) {b : Nat} (hb : 0 < b) (h : c ≤ k * b) :
    roundHalfUp (a + c) b ≤ roundHalfUp a b + k := by
  rw [← roundHalfUp_add_mul a k hb]
  exact roundHalfUp_mono b (Nat.add_le_add_left h a)

/-- An increase by c raises the rounded quotient by c / b rounded down or up. -/
theorem roundHalfUp_add_sub (a c : Nat) {b : Nat} (hb : 0 < b) :
    roundHalfUp (a + c) b - roundHalfUp a b = c / b ∨
      roundHalfUp (a + c) b - roundHalfUp a b = (c + b - 1) / b := by
  have hdown : c / b * b ≤ c := Nat.div_mul_le_self c b
  have hup : c ≤ (c + b - 1) / b * b := by
    have := Nat.lt_div_mul_add (a := c + b - 1) hb
    omega
  have hnear : (c + b - 1) / b ≤ c / b + 1 := by
    rw [← Nat.add_div_right c hb]
    exact Nat.div_le_div_right (by omega)
  have hlow := roundHalfUp_add_le a hb hdown
  have hhigh := roundHalfUp_le_add a hb hup
  generalize c / b = lo, (c + b - 1) / b = hi at *
  omega

/-! ### Tiling -/

/-- The half-open ranges between neighbours of a sequence that starts at 0 and never falls tile what lies below any of
its members: each number stands in exactly one. -/
theorem existsUnique_range_of_monotone {s : Nat → Nat} (hs : Monotone s) (h0 : s 0 = 0) {n x : Nat} (hx : x < s n) :
    ∃ f, f < n ∧ s f ≤ x ∧ x < s (f + 1) ∧ ∀ g, s g ≤ x → x < s (g + 1) → g = f := by
  induction n with
  | zero => omega
  | succ n ih =>
    by_cases hn : x < s n
    · obtain ⟨f, hf, hrest⟩ := ih hn
      exact ⟨f, by omega, hrest⟩
    · refine ⟨n, by omega, by omega, hx, fun g hg hg' => ?_⟩
      have hle : g < n + 1 := hs.reflect_lt (by omega)
      have hge : n < g + 1 := hs.reflect_lt (by omega)
      omega

/-! ### The frame of a programme time (R5) -/

theorem frameOf_eq_roundHalfUp (tb : Timebase) (p : Nat) :
    tb.frameOf p = roundHalfUp (p * tb.num) (tb.den * 1000) := by
  simp only [Timebase.frameOf, roundHalfUp, mul_assoc]

theorem frameOf_bounds {tb : Timebase} (hd : 1 ≤ tb.den) (p : Nat) :
    2 * tb.frameOf p * (tb.den * 1000) ≤ 2 * p * tb.num + tb.den * 1000 ∧
      2 * p * tb.num < (2 * tb.frameOf p + 1) * (tb.den * 1000) := by
  rw [frameOf_eq_roundHalfUp, mul_assoc 2 p]
  exact roundHalfUp_bounds _ (by omega)

theorem frameOf_mono (tb : Timebase) : Monotone tb.frameOf := fun p q h => by
  simp only [frameOf_eq_roundHalfUp]
  exact roundHalfUp_mono _ (Nat.mul_le_mul_right _ h)

theorem frameOf_of_half {tb : Timebase} (hd : 1 ≤ tb.den) {p k : Nat}
    (h : 2 * p * tb.num = (2 * k + 1) * (tb.den * 1000)) : tb.frameOf p = k + 1 := by
  rw [frameOf_eq_roundHalfUp]
  exact roundHalfUp_of_half (by omega) (by rw [← mul_assoc, h])

/-- Settles O8, by the bounds that fix a quotient rounded half up; at the two 1001 rates an exact half would make an
even number odd. -/
theorem frameOfRoundsHalfUp : Obligations.FrameOfRoundsHalfUp := by
  refine ⟨fun tb hd => ⟨fun p => rfl, frameOf_bounds hd, fun p q h => frameOf_mono tb h, fun p k h => ?_⟩,
    fun n a => ⟨?_, ?_⟩, fun p k => ⟨by omega, by omega⟩⟩
  · exact ⟨frameOf_of_half hd h, by linarith⟩
  · exact frameOf_of_half (k := 0) le_rfl (by norm_num)
  · exact frameOf_of_half (k := 1) le_rfl (by norm_num)

/-! ### The first sample of a frame (R8) -/

theorem firstSample_eq_roundHalfUp (tb : Timebase) (f : Nat) :
    tb.firstSample f = roundHalfUp (f * (tb.den * 48000)) tb.num := by
  simp only [Timebase.firstSample, roundHalfUp, mul_assoc]

theorem firstSample_add (tb : Timebase) (f g : Nat) :
    tb.firstSample (f + g) = roundHalfUp (f * (tb.den * 48000) + g * (tb.den * 48000)) tb.num := by
  rw [firstSample_eq_roundHalfUp, add_mul]

theorem firstSample_bounds {tb : Timebase} (hn : 0 < tb.num) (f : Nat) :
    2 * tb.firstSample f * tb.num ≤ 2 * f * (tb.den * 48000) + tb.num ∧
      2 * f * (tb.den * 48000) < (2 * tb.firstSample f + 1) * tb.num := by
  rw [firstSample_eq_roundHalfUp, mul_assoc 2 f]
  exact roundHalfUp_bounds _ hn

theorem firstSample_mono (tb : Timebase) : Monotone tb.firstSample := fun f g h => by
  simp only [firstSample_eq_roundHalfUp]
  exact roundHalfUp_mono _ (Nat.mul_le_mul_right _ h)

/-- Where g frames last a whole number of samples, any g frames on end take exactly that many: the period of R8. -/
theorem firstSample_add_of_whole {tb : Timebase} (hn : 0 < tb.num) {g k : Nat}
    (h : g * (tb.den * 48000) = k * tb.num) (f : Nat) : tb.firstSample (f + g) = tb.firstSample f + k := by
  rw [firstSample_add, h, roundHalfUp_add_mul _ _ hn, firstSample_eq_roundHalfUp]

theorem firstSample_zero {tb : Timebase} (hn : 0 < tb.num) : tb.firstSample 0 = 0 := by
  simpa [firstSample_eq_roundHalfUp] using roundHalfUp_mul 0 hn

theorem firstSample_of_whole {tb : Timebase} (hn : 0 < tb.num) {k : Nat} (h : tb.den * 48000 = k * tb.num) (f : Nat) :
    tb.firstSample f = k * f := by
  rw [firstSample_eq_roundHalfUp, h, ← mul_assoc, roundHalfUp_mul _ hn, mul_comm]

/-- A frame at no more than 120 frames per second holds at least 400 samples. -/
theorem firstSample_add_400_le {tb : Timebase} (hn : 0 < tb.num) (hmax : tb.num ≤ 120 * tb.den) (f : Nat) :
    tb.firstSample f + 400 ≤ tb.firstSample (f + 1) := by
  rw [firstSample_add, firstSample_eq_roundHalfUp]
  exact roundHalfUp_add_le _ hn (by omega)

theorem firstSample_succ_sub {tb : Timebase} (hn : 0 < tb.num) (f : Nat) :
    tb.firstSample (f + 1) - tb.firstSample f = tb.den * 48000 / tb.num ∨
      tb.firstSample (f + 1) - tb.firstSample f = (tb.den * 48000 + tb.num - 1) / tb.num := by
  rw [firstSample_add, one_mul, firstSample_eq_roundHalfUp]
  exact roundHalfUp_add_sub _ _ hn

/-- What the valid rates (R2) give the arithmetic: a positive numerator and at most 120 frames per second. -/
theorem rateOk_bounds {num den : Nat} (h : rateOk num den = true) : 0 < num ∧ num ≤ 120 * den := by
  simp only [rateOk, within, Bool.and_eq_true, decide_eq_true_eq] at h
  omega

/-- Settles O10: the sizes by what rounding half up makes of an increase, the tiling by the growth of the first
samples. -/
theorem sampleRangesTile : Obligations.SampleRangesTile := by
  refine ⟨fun tb hr => ?_, fun n a f => ⟨?_, ?_, ?_, ?_, ?_⟩⟩
  · obtain ⟨hn, hmax⟩ := rateOk_bounds hr
    exact ⟨fun f => ⟨rfl, firstSample_bounds hn f⟩, firstSample_zero hn, firstSample_add_400_le hn hmax,
      fun n x hx => existsUnique_range_of_monotone (firstSample_mono tb) (firstSample_zero hn) hx,
      firstSample_succ_sub hn, firstSample_add_of_whole hn (mul_comm _ _), fun k hk => firstSample_of_whole hn hk⟩
  · exact firstSample_of_whole (by norm_num) (by norm_num) f
  · exact firstSample_of_whole (by norm_num) (by norm_num) f
  · exact firstSample_of_whole (by norm_num) (by norm_num) f
  · exact firstSample_of_whole (by norm_num) (by norm_num) f
  · exact firstSample_add_of_whole (by norm_num) (by norm_num) f

end Sys2Proof.Machine
end

section
/-! PROOFS. Requests on a job's slot and on the device that a ready part answers at once: RLS (R36) and DQRY (R40). -/

namespace Sys2Proof.Machine

/-! ### Requests answered at once (R180) -/

/-- A ready part answers a request with the effect, status and fields its record is handled with. -/
theorem exec_requestOf_answered {s u : State} {k : Kind} {r : Req} {st : Status} {fs : List Byte}
    (hready : s.ready = true)
    (hhandle : handle (requestRecord k.code r) s = answer (requestRecord k.code r) ⟨u, st, fs⟩) :
    exec (requestOf k r) s = u.answered k r st fs := by
  rw [exec_requestOf_ready hready, hhandle]
  exact answered_of_result rfl

/-! ### A freed slot (R36, R37, R168) -/

@[simp] theorem disownEntry_record (j : Fin 8) (e : OutEntry) : (disownEntry j e).record = e.record := by
  unfold disownEntry
  split <;> rfl

/-- The records in the store stay, in their order. -/
theorem freeSlot_store_records (j : Fin 8) (s : State) :
    (s.freeSlot j).store.map OutEntry.record = s.store.map OutEntry.record := by
  simp [State.freeSlot]

/-- The bytes being sent stay. -/
theorem freeSlot_tx_wire (j : Fin 8) (s : State) : (s.freeSlot j).tx.map Tx.wire = s.tx.map Tx.wire := by
  simp only [State.freeSlot, Option.map_map]
  rfl

/-- Freeing a slot changes the slots, the store and the transmitter alone. -/
theorem freeSlot_frame (j : Fin 8) (s : State) :
    ({ s.freeSlot j with slots := s.slots, store := s.store, tx := s.tx } : State) = s := rfl

/-! ### RLS (R36) -/

theorem doRls_of_not_done {r : LinkRecord} {s : State} {j : Fin 8} (hj : slotOf r.job = some j)
    (hstate : ∀ b, s.slot j = .job b → b.state ≠ .done) : doRls r s = refuse .badState s := by
  rw [doRls, withSlot_of_slot hj]
  exact withJobIn_refused fun b hb => beq_eq_false_iff_ne.mpr (hstate b hb)

theorem doRls_of_done {r : LinkRecord} {s : State} {j : Fin 8} {b : Job} (hj : slotOf r.job = some j)
    (hb : s.slot j = .job b) (hdone : b.state = .done) (hbody : r.body = []) :
    doRls r s = ⟨s.freeSlot j, .ok, []⟩ := by
  rw [doRls, withSlot_of_slot hj, withJobIn_taken (ok := (· == .done)) hb (beq_iff_eq.mpr hdone), hbody,
    parseEmpty_nil]

/-- Settles O30: RLS frees the slot of a DONE job and is refused elsewhere, and freeing a slot takes only their owner
from the records already placed. -/
theorem rlsFreesSlot : Obligations.RlsFreesSlot := by
  intro s r j hready hj
  refine ⟨fun hstate => ?_, fun b hb hdone hbody => ⟨?_, slot_freeSlot_self s j, fun k => slot_freeSlot_ne s j k,
    freeSlot_store_records j s, freeSlot_tx_wire j s, freeSlot_frame j s⟩⟩
  · apply exec_requestOf_answered (k := .rls) hready
    rw [handle_rls, doRls_of_not_done hj hstate, refuse]
  · apply exec_requestOf_answered (k := .rls) hready
    rw [handle_rls, doRls_of_done hj hb hdone hbody]

/-! ### DQRY (R40) -/

theorem doDqry_of_job_ne {r : LinkRecord} (hjob : r.job ≠ 0#8) (s : State) : doDqry r s = refuse .badField s := by
  rw [doDqry, if_pos hjob]

theorem doDqry_of_device {r : LinkRecord} (hjob : r.job = 0#8) (hbody : r.body = []) (s : State) :
    doDqry r s = ⟨s, .ok, beBytes 2 s.freeCues ++ beBytes 2 s.freeBlocks ++ beBytes 2 s.freeClips ++
      slotNumbers.flatMap (fun j => beBytes 1 (s.slot j).code) ++ beBytes 2 s.parkSerial.toNat⟩ := by
  rw [doDqry, if_neg (not_not_intro hjob), hbody, parseEmpty_nil]

/-- Settles O32: with job field 0 the reply carries the pools' free entries, each the pool's size less what the slots
hold; any other job field is refused. -/
theorem dqryReportsDevice : Obligations.DqryReportsDevice := by
  intro s r hready
  refine ⟨fun hjob => ?_, fun hjob hbody => ?_⟩
  · apply exec_requestOf_answered (k := .dqry) hready
    rw [handle_dqry, doDqry_of_job_ne hjob, refuse]
  · apply exec_requestOf_answered (k := .dqry) hready
    rw [handle_dqry, doDqry_of_device hjob hbody]
    rfl

end Sys2Proof.Machine
end

section
/-! PROOFS. How a window is classified from its three levels: its match vector (R117), its class, its masked vector and
its mixed property (R118). -/

namespace Sys2Proof.Machine

/-! ### A byte from its bits -/

/-- The byte's value is the library's number with those eight bits. -/
theorem byteOf_eq_ofBits (f : Nat → Bool) : byteOf f = BitVec.ofNat 8 (Nat.ofBits fun i : Fin 8 => f i) := by
  have hbit (b : Bool) (k : Nat) : (if b then k else 0) = k * b.toNat := by cases b <;> simp
  rw [byteOf]
  congr 1
  simp only [bitNumbers, total, List.map_cons, List.map_nil, List.foldr_cons, List.foldr_nil, hbit, Nat.ofBits_succ,
    Nat.ofBits_zero, Function.comp_apply, Fin.val_succ, Fin.val_zero,
    Nat.reduceAdd, zero_add]
  omega

theorem byteOf_getLsbD (f : Nat → Bool) {i : Nat} (hi : i < 8) : (byteOf f).getLsbD i = f i := by
  rw [byteOf_eq_ofBits, BitVec.getLsbD_ofNat, Nat.testBit_ofBits_lt _ i hi]
  simp [hi]

theorem mem_bitNumbers {i : Nat} : i ∈ bitNumbers ↔ i < 8 := by
  simp only [bitNumbers, List.mem_cons, List.not_mem_nil, or_false]
  omega

/-! ### Sub-windows above a level (R117) -/

/-- How many of the three sub-window levels are greater than t. -/
def Levels.above (v : Levels) (t : Nat) : Nat := ([v.v0, v.v1, v.v2].filter fun l => decide (t < l)).length

theorem Levels.above_le_three (v : Levels) (t : Nat) : v.above t ≤ 3 := List.length_filter_le ..

/-- A level above a threshold is above every lower one. -/
theorem Levels.above_anti (v : Levels) {t u : Nat} (h : t ≤ u) : v.above u ≤ v.above t := by
  refine (List.monotone_filter_right _ fun l hl => ?_).length_le
  exact decide_eq_true (h.trans_lt (of_decide_eq_true hl))

theorem total_map_ite {α : Type} (l : List α) (p : α → Prop) [DecidablePred p] :
    total (l.map fun a => if p a then 1 else 0) = (l.filter fun a => decide (p a)).length := by
  induction l with
  | nil => rfl
  | cons a l ih =>
    rw [total] at ih
    by_cases h : p a <;> simp [total, h, ih, Nat.add_comm]

/-! ### The match vector (R117) -/

section
variable {x : DetSettings} {v : Levels} {i : Nat}

/-- A disabled threshold has no matches; an enabled one has those of the levels above it. -/
theorem matches_eq_above (hlen : x.thresholds.length = 8) (hi : i < 8) :
    x.matches v i = if x.sampleMask.getLsbD i then v.above (x.thresholds.getD i 0) else 0 := by
  have hget (d : Nat) : x.thresholds.getD i d = x.thresholds[i] := List.getD_eq_getElem _ _ (by omega)
  rw [DetSettings.matches, total_map_ite, Levels.above, hget, hget]

theorem matchVector_getLsbD (hlen : x.thresholds.length = 8) (hi : i < 8) :
    (x.matchVector v).getLsbD i = (x.sampleMask.getLsbD i && decide (2 ≤ v.above (x.thresholds.getD i 0))) := by
  rw [DetSettings.matchVector, byteOf_getLsbD _ hi, matches_eq_above hlen hi]
  cases x.sampleMask.getLsbD i <;> simp

/-- A set bit of the match vector sets the bit of every enabled threshold that is no higher. -/
theorem matchVector_getLsbD_of_le {m n : Nat} (hlen : x.thresholds.length = 8) (hm : m < 8) (hn : n < 8)
    (hle : x.thresholds.getD m 0 ≤ x.thresholds.getD n 0) (henabled : x.sampleMask.getLsbD m = true)
    (hset : (x.matchVector v).getLsbD n = true) : (x.matchVector v).getLsbD m = true := by
  rw [matchVector_getLsbD hlen hn, Bool.and_eq_true, decide_eq_true_iff] at hset
  rw [matchVector_getLsbD hlen hm, henabled, Bool.true_and, decide_eq_true_iff]
  exact hset.2.trans (v.above_anti hle)

/-! ### What follows from the match vector and the matches (R118) -/

theorem masked_getLsbD (vector : Byte) (i : Nat) :
    (x.masked vector).getLsbD i = (vector.getLsbD i && x.debounceMask.getLsbD i) := BitVec.getLsbD_and

/-- Of the three sub-windows one or two match, that is neither none nor all. -/
theorem isMixed_iff (hlen : x.thresholds.length = 8) : x.isMixed v = true ↔ ∃ i, i < 8 ∧
    x.sampleMask.getLsbD i = true ∧ v.above (x.thresholds.getD i 0) ≠ 0 ∧ v.above (x.thresholds.getD i 0) ≠ 3 := by
  simp only [DetSettings.isMixed, List.any_eq_true, mem_bitNumbers, Bool.or_eq_true, beq_iff_eq]
  refine exists_congr fun i => and_congr_right fun hi => ?_
  have hthree := v.above_le_three (x.thresholds.getD i 0)
  rw [matches_eq_above hlen hi]
  split
  case isTrue henabled =>
    simp only [henabled, true_and]
    omega
  case isFalse hdisabled => simp [hdisabled]

end

/-- Settles O41: every clause by the count of sub-window levels above the threshold, the rising one because that count
falls as the threshold rises. -/
theorem windowIsClassified : Obligations.WindowIsClassified := by
  intro x v hlen
  refine ⟨fun i hi => matchVector_getLsbD hlen hi, fun i _ => masked_getLsbD _ i, fun hrising m n hmn hn hm hset => ?_,
    ?_, isMixed_iff hlen⟩
  · have henabled : x.sampleMask.getLsbD n = true := by
      rw [matchVector_getLsbD hlen hn, Bool.and_eq_true] at hset
      exact hset.1
    exact matchVector_getLsbD_of_le hlen (hmn.trans hn) hn (hrising m n hmn hn hm henabled).le hm hset
  · rintro i hi rfl
    exact matchVector_getLsbD hlen hi

end Sys2Proof.Machine
end

section
/-! PROOFS. The arithmetic of output times (R7), for a row of frames. It stands first because its check needs time and
little memory, while the tests above, whose evaluations hold nearly all the memory there is, come to their end. -/

namespace Sys2Proof.Machine

/- There are no section variables here. The option makes Lean elaborate each proof in turn, not beside the tests. -/
set_option deprecated.oldSectionVars true

/-- The output times o of a row of eighteen frames from f on, each within half a millisecond of its frame's time, where a
frame lasts at least a millisecond: the second lies beyond the first. -/
theorem outTimes_rise {num den f : Nat} {o : Nat → Nat} (hmax : num ≤ den)
    (hlo : ∀ i, 2 * o i * num ≤ 2 * (f + i) * den + num) (hhi : ∀ i, 2 * (f + i) * den < (2 * o i + 1) * num) :
    o 0 < o 1 := by
  by_contra h
  have hle : (2 * o 1 + 1) * num ≤ 2 * o 0 * num + num :=
    (Nat.mul_le_mul_right num (Nat.succ_le_succ (Nat.mul_le_mul_left 2 (Nat.le_of_not_lt h)))).trans_eq (Nat.succ_mul ..)
  have hlt := (hhi 1).trans_le (hle.trans (Nat.add_le_add_right (hlo 0) num))
  rw [Nat.add_zero, Nat.mul_add 2 f 1, Nat.add_mul, Nat.add_assoc, ← Nat.two_mul] at hlt
  have hge := Nat.mul_le_mul_left 2 hmax
  have hlt' := Nat.lt_of_add_lt_add_left hlt
  generalize 2 * num = x at hge hlt'
  generalize 2 * den = y at hge hlt'
  clear hmax hle hlt h
  nlinarith [hge, hlt', hlo 2, hhi 2, hlo 3, hhi 3, hlo 4, hhi 4, hlo 5, hhi 5, hlo 6, hhi 6, hlo 7, hhi 7,
    hlo 8, hhi 8, hlo 9, hhi 9, hlo 10, hhi 10, hlo 11, hhi 11,
    hlo 12, hhi 12, hlo 13, hhi 13, hlo 14, hhi 14, hlo 15, hhi 15, hlo 16, hhi 16, hlo 17, hhi 17]

/-- The first of them is off its frame's time by less than half a frame. -/
theorem outTimes_frame {num den f : Nat} {o : Nat → Nat} (hmax : num < den)
    (hlo : ∀ i, 2 * o i * num ≤ 2 * (f + i) * den + num) (hhi : ∀ i, 2 * (f + i) * den < (2 * o i + 1) * num) :
    2 * f * den ≤ 2 * (o 0 * num) + den ∧ 2 * (o 0 * num) < (2 * f + 1) * den := by
  have h0 := hhi 0
  rw [Nat.add_zero, Nat.succ_mul (2 * o 0), Nat.mul_assoc 2 (o 0)] at h0
  have h1 := hlo 0
  rw [Nat.add_zero, Nat.mul_assoc 2 (o 0)] at h1
  rw [Nat.succ_mul (2 * f)]
  exact ⟨h0.le.trans (Nat.add_le_add_left hmax.le _), h1.trans_lt (Nat.add_lt_add_left hmax _)⟩

end Sys2Proof.Machine
end

section
/-! PROOFS. What one step can do, said once: the single changes a claimant's notices, a job and the part can undergo,
and, operation by operation, that a step is a sequence of them. Every invariant of all steps is then kept as soon as
each single change keeps it. -/

namespace Sys2Proof.Machine

-- No section variable stands here: the option has Lean elaborate one proof after the other (see the byte facts above).
set_option deprecated.oldSectionVars true

/-! ### The single changes -/

/-- What the Notice Unit does to a claimant's notices, whose kinds begin at a base code: it counts, clears, places a
NOTE, withdraws one, or lets one wait (R188 to R193). -/
inductive Notices.Change (base : Nat) (x : Notices) : Notices → Prop
  | report (i n : Nat) : Change base x (x.report base i n)
  | clear (set : KindSet) : Change base x (x.clear base set)
  | placed : Change base x x.placed
  | withdrawn : Change base x x.withdrawn
  | waits : Change base x { x with wait := true }

/-- The changes of a slot's state that leave W and E where they are (R29, R30, R32, R35, R163). -/
inductive JobState.Turn : JobState → JobState → Prop
  | hold : Turn .running .holding
  | held : Turn .holding .held
  | resume : Turn .held .running
  | park : Turn .held .parking
  | done : Turn .finishing .done

/-- A cue but for its lane state. -/
noncomputable def Cue.content (c : Cue) : Cue := { c with lane := .off }

/-- A gap's number and end: what the order of the Gap List reads (R125). -/
noncomputable def Gap.mark (g : Gap) : Nat × Option Nat := (g.num, g.endS)

/-- A track that holds no entry. -/
def Track.bare : Track → Prop
  | .text t => t.cues = []
  | .desc t => t.pending = [] ∧ t.placed = []

/-- The single changes of a job that leave its state, timebase, quotas, marks and latch, and take no entry from a
pool. -/
inductive Job.Work (b : Job) : Job → Prop
  | notices {x : Notices} (h : Notices.Change eventBase b.notices x) : Work b { b with notices := x }
  /-- The levels, the lane, the park, the producer served last and the arrival number: no invariant reads them. -/
  | aside (cls : Classifier) (lane : Lane) (park : Option ParkFlight) (last : Producer) (arrival : Nat) :
      Work b { b with cls := cls, lane := lane, park := park, lastProducer := last, nextArrival := arrival }
  | segmentWaits : Work b { b with seg := { b.seg with wait := true } }
  | segmentBegins (j : Fin 8) (hr : b.segmentReady = true) : Work b (b.beginSegment j)
  | segmentGoesOn {fl : SegFlight} (h : b.seg.flight = some fl) (rest : List LinkRecord) :
      Work b { b with seg := { b.seg with flight := some { fl with todo := rest } } }
  | segmentEnds {fl : SegFlight} (h : b.seg.flight = some fl) :
      Work b { b with seg := { next := fl.index + 1, emitted := fl.endF, flight := none, wait := false } }
  | segmentStops : Work b { b with seg := { b.seg with flight := none, wait := false } }
  | gapOpens {g : Gap} {d : Detector} (hl : b.gaps.length < Config.gapListSize) (hb : b.gd.holdsGap = false)
      (hd : d.holdsGap = true) (hg : g.num = b.gd.nextGap) (hn : d.nextGap = b.gd.nextGap + 1) :
      Work b { b with gd := d, gaps := b.gaps ++ [g] }
  | gapCloses {d : Detector} (e : Nat) (hn : d.nextGap = b.gd.nextGap) :
      Work b { b with gd := d, gaps := mapLast (fun g => { g with endS := some e }) b.gaps }
  | detects {d : Detector} (hn : d.nextGap = b.gd.nextGap) (hd : b.gd.holdsGap = true → d.holdsGap = true) :
      Work b { b with gd := d }
  | gapsLeave {gs : List Gap} (h : (gs.map Gap.mark).Sublist (b.gaps.map Gap.mark)) : Work b { b with gaps := gs }
  | cuesLeave {i : Fin 16} {t : TextTrack} {cs : List Cue} (ht : b.text? i = some t)
      (h : (cs.map Cue.content).Sublist (t.cues.map Cue.content)) : Work b (b.setTrack i (.text { t with cues := cs }))
  | clipsLeave {i : Fin 16} {t u : DescTrack} (ht : b.desc? i = some t) (hp : u.pending.Sublist t.pending)
      (hl : u.live.length ≤ t.live.length) : Work b (b.setTrack i (.desc u))
  | untimedLeave {us : List Untimed} (h : us.Sublist b.untimed) : Work b { b with untimed := us }
  | cueConverts {u : UntimedCue} {rest : List Untimed} {t : TextTrack} {c : Cue} (hu : b.untimed = .cue u :: rest)
      (ht : b.text? u.track = some t) (hc : c.text = u.text ∧ c.laneText = u.laneText) :
      Work b ({ b with untimed := rest }.setTrack u.track (.text { t with cues := insertCue c t.cues }))
  | clipConverts {u : UntimedClip} {rest : List Untimed} {t : DescTrack} (hu : b.untimed = .clip u :: rest)
      (ht : b.desc? u.track = some t) (hl : t.live.length < Config.clipsPerTrack) (c : Clip) :
      Work b ({ b with untimed := rest }.setTrack u.track (.desc { t with pending := insertClip c t.pending }))

/-- The single changes of a job that take no entry from a pool: work, and what the requests of Job Control do. -/
inductive Job.Move (b : Job) : Job → Prop
  | work {c : Job} (h : b.Work c) : Move b c
  | settings (laneSet : LaneSettings) (det : DetSettings) : Move b { b with laneSet := laneSet, det := det }
  | enables {set : KindSet} (h : kindsWithin eventSet set = true) :
      Move b { b with notices := { b.notices with enables := set } }
  | latch {l : List LinkRecord} (h : l.length ≤ Config.latchSize) : Move b { b with latch := l }
  | waitsForAnchor (h : b.state = .opened) : Move b { b with state := .anchorWait, untimed := [] }
  | starts (h : b.state = .opened ∨ b.state = .anchorWait) (a : Nat) : Move b (b.enterRunning a)
  | turns {st : JobState} (h : b.state.Turn st) : Move b { b with state := st }
  | raises {w : Nat} (hs : b.state = .running) (hw : b.w.getD 0 ≤ w ∨ w = b.tb.span) (hn : w ≤ b.tb.span) :
      Move b { b with w := some w }
  | finishes {e : Nat} (hs : b.state = .running) (hw : b.w.getD 0 ≤ e) (hn : e ≤ b.tb.span) :
      Move b { b with state := .finishing, w := some e, e := some e }
  | defines (i : Fin 16) {x : Track} (h : x.bare) : Move b (b.setTrack i x)

/-- A cue taken into a job: stored on its track, or held untimed (R26, R47). -/
inductive Job.TakesCue (b : Job) (blocks : Nat) : Job → Prop
  | stored {i : Fin 16} {t : TextTrack} {c : Cue} (ht : b.text? i = some t) (hc : blocksOf c.text c.laneText = blocks) :
      TakesCue b blocks (b.setTrack i (.text { t with cues := insertCue c t.cues }))
  | held {u : UntimedCue} (hu : blocksOf u.text u.laneText = blocks) :
      TakesCue b blocks { b with untimed := b.untimed ++ [.cue u] }

/-- A clip taken into a job: pending on its track, or held untimed (R26, R141). -/
inductive Job.TakesClip (b : Job) : Job → Prop
  | stored {i : Fin 16} {t : DescTrack} (ht : b.desc? i = some t) (hl : t.live.length < Config.clipsPerTrack) (c : Clip) :
      TakesClip b (b.setTrack i (.desc { t with pending := insertClip c t.pending }))
  | held (u : UntimedClip) : TakesClip b { b with untimed := b.untimed ++ [.clip u] }

/-- A job that UNPK restores from the bytes of a context within the pools' limits (R171, R172, R174). -/
def Job.RestoredWithin (x : Limits) (b : Job) : Prop :=
  ∃ serial f bytes r, readContext x serial f bytes = some (.go r) ∧ r.ok f = true ∧ b = r.build

/-- An assembly has allocated no more than the pools hold (R171). -/
def Assembly.Within (x : Limits) (a : Assembly) : Prop := a.cues ≤ x.cues ∧ a.blocks ≤ x.blocks ∧ a.clips ≤ x.clips

/-- The single changes of the part: none touches the queue of commands. -/
inductive State.Move (s : State) : State → Prop
  /-- The link, the store, the transmitter, the rotation and the waiting ABRT. -/
  | link {t : State} (hp : t.pending = s.pending) (hs : t.slots = s.slots) (hd : t.device = s.device) : Move s t
  | device {n : Notices} (h : Notices.Change alertBase s.device n) : Move s { s with device := n }
  | job {j : Fin 8} {b c : Job} (hb : s.slot j = .job b) (h : b.Move c) : Move s (s.setJob j c)
  | takesCue {j : Fin 8} {b c : Job} {blocks : Nat} (hb : s.slot j = .job b) (hq : b.cueCount < b.cueQuota)
      (hf : 0 < s.freeCues) (hk : blocks ≤ s.freeBlocks) (h : b.TakesCue blocks c) : Move s (s.setJob j c)
  | takesClip {j : Fin 8} {b c : Job} (hb : s.slot j = .job b) (hq : b.clipCount < b.clipQuota)
      (hf : 0 < s.freeClips) (h : b.TakesClip c) : Move s (s.setJob j c)
  | frees (j : Fin 8) : Move s (s.setSlot j .free)
  | opens {j : Fin 8} {f : JopnFields} (hf : f.valid = true) : Move s (s.setJob j (openedJob f))
  | assembles {j : Fin 8} {a : Assembly} (h : a.Within (s.limits j)) : Move s (s.setSlot j (.restoring a))
  | goesOn {j : Fin 8} {a c : Assembly} (ha : s.slot j = .restoring a)
      (hc : c.cues = a.cues ∧ c.blocks = a.blocks ∧ c.clips = a.clips) : Move s (s.setSlot j (.restoring c))
  | restores {j : Fin 8} {b : Job} (h : b.RestoredWithin (s.limits j)) : Move s (s.setJob j b)
  | resets {t : State} (hp : t.pending = s.pending) (hs : ∀ j, t.slot j = .free) (hd : t.device = Notices.device) :
      Move s t

/-- A sequence of work on a job. -/
def Job.Works (b c : Job) : Prop := Relation.ReflTransGen Job.Work b c

/-- A sequence of single changes of a job. -/
def Job.Moves (b c : Job) : Prop := Relation.ReflTransGen Job.Move b c

/-- A sequence of single changes of the part. -/
def State.Reaches (s t : State) : Prop := Relation.ReflTransGen State.Move s t

theorem Job.Moves.refl (b : Job) : b.Moves b := Relation.ReflTransGen.refl

theorem Job.Move.moves {b c : Job} (h : b.Move c) : b.Moves c := Relation.ReflTransGen.single h

theorem Job.Moves.trans {b c d : Job} (h : b.Moves c) (k : c.Moves d) : b.Moves d := Relation.ReflTransGen.trans h k

theorem Job.Works.refl (b : Job) : b.Works b := Relation.ReflTransGen.refl

theorem Job.Work.works {b c : Job} (h : b.Work c) : b.Works c := Relation.ReflTransGen.single h

theorem Job.Works.trans {b c d : Job} (h : b.Works c) (k : c.Works d) : b.Works d := Relation.ReflTransGen.trans h k

theorem Job.Works.moves {b c : Job} (h : b.Works c) : b.Moves c := h.lift id fun _ _ => .work

/-- What work leaves as it was. -/
theorem Job.Works.keeps {b c : Job} (h : b.Works c) : c.state = b.state ∧ c.tb = b.tb ∧ c.w = b.w ∧ c.e = b.e ∧
    c.latch = b.latch ∧ c.laneSet = b.laneSet ∧ c.det = b.det ∧ c.segLen = b.segLen := by
  induction h with
  | refl => exact ⟨rfl, rfl, rfl, rfl, rfl, rfl, rfl, rfl⟩
  | tail _ hm ih => cases hm <;> exact ih

theorem Job.Moves.then {b c d : Job} (h : b.Moves c) (k : c.Move d) : b.Moves d := Relation.ReflTransGen.tail h k

theorem State.Reaches.refl (s : State) : s.Reaches s := Relation.ReflTransGen.refl

theorem State.Move.reaches {s t : State} (h : s.Move t) : s.Reaches t := Relation.ReflTransGen.single h

theorem State.Reaches.trans {s t u : State} (h : s.Reaches t) (k : t.Reaches u) : s.Reaches u :=
  Relation.ReflTransGen.trans h k

theorem State.Reaches.then {s t u : State} (h : s.Reaches t) (k : t.Move u) : s.Reaches u :=
  Relation.ReflTransGen.tail h k

/-- What each single change keeps, a sequence of them keeps. -/
theorem State.Reaches.keeps {P : State → Prop} (hP : ∀ s t, s.Move t → P s → P t) {s t : State} (h : s.Reaches t)
    (hs : P s) : P t := by
  induction h with
  | refl => exact hs
  | tail _ hm ih => exact hP _ _ hm ih

/-- A fold of steps that are each a sequence of changes is one. -/
theorem Job.Works.foldl {α : Type} {f : Job → α → Job} (hf : ∀ (b : Job) (a : α), b.Works (f b a)) (l : List α) (b : Job) :
    b.Works (l.foldl f b) := by
  induction l generalizing b with
  | nil => exact .refl b
  | cons a l ih => exact (hf b a).trans (ih _)

/-! ### Tracks -/

theorem Job.track_of_text? {b : Job} {i : Fin 16} {t : TextTrack} (h : b.text? i = some t) :
    b.track i = some (.text t) := by
  revert h
  unfold Job.text?
  cases b.track i with
  | none => exact fun h => absurd h (Option.some_ne_none t).symm
  | some x =>
    cases x with
    | text u => exact fun h => congrArg (fun o => o.map Track.text) h
    | desc u => exact fun h => absurd h (Option.some_ne_none t).symm

theorem Job.track_of_desc? {b : Job} {i : Fin 16} {t : DescTrack} (h : b.desc? i = some t) :
    b.track i = some (.desc t) := by
  revert h
  unfold Job.desc?
  cases b.track i with
  | none => exact fun h => absurd h (Option.some_ne_none t).symm
  | some x =>
    cases x with
    | desc u => exact fun h => congrArg (fun o => o.map Track.desc) h
    | text u => exact fun h => absurd h (Option.some_ne_none t).symm

@[simp] theorem track_setTrack_self (b : Job) (i : Fin 16) (x : Track) : (b.setTrack i x).track i = some x := by
  simp [Job.track, Job.setTrack]

theorem track_setTrack_ne (b : Job) {i k : Fin 16} (x : Track) (h : k ≠ i) :
    (b.setTrack i x).track k = b.track k := by
  have h' : i.val ≠ k.val := fun e => h (Fin.ext e.symm)
  simp [Job.track, Job.setTrack, Vector.getElem_set_ne, h']

/-! ### What the operations on a job do -/

theorem Job.report_works (b : Job) (k : Event) (n : Nat) : b.Works (b.report k n) :=
  (Job.Work.notices (.report k.code n)).works

theorem Job.reportIf_works (b : Job) (c : Bool) (k : Event) : b.Works (b.reportIf c k) := by
  unfold Job.reportIf
  split
  · exact b.report_works k 1
  · exact .refl b

/-- Counting a stall comes after whatever led to it. -/
theorem Job.countStall_works {b c : Job} (h : b.Works c) : b.Works (b.countStall c) := h.trans (c.reportIf_works _ _)

theorem Job.mapText_works {f : TextTrack → TextTrack}
    (hf : ∀ t, ∃ cs, f t = { t with cues := cs } ∧ (cs.map Cue.content).Sublist (t.cues.map Cue.content)) (b : Job)
    (i : Fin 16) : b.Works (b.mapText i f) := by
  unfold Job.mapText
  split
  · next t ht =>
    obtain ⟨cs, hcs, hsub⟩ := hf t
    rw [hcs]
    exact (Job.Work.cuesLeave ht hsub).works
  · exact .refl b

theorem Job.mapTexts_works {f : TextTrack → TextTrack}
    (hf : ∀ t, ∃ cs, f t = { t with cues := cs } ∧ (cs.map Cue.content).Sublist (t.cues.map Cue.content)) (b : Job) :
    b.Works (b.mapTexts f) :=
  Job.Works.foldl (fun b i => b.mapText_works hf i) _ b

/-- A change of a DESC track that takes no clip in. -/
def DescTrack.Leaves (t u : DescTrack) : Prop := u.pending.Sublist t.pending ∧ u.live.length ≤ t.live.length

theorem Job.mapDesc_works {f : DescTrack → DescTrack} (hf : ∀ t, DescTrack.Leaves t (f t)) (b : Job) (i : Fin 16) :
    b.Works (b.mapDesc i f) := by
  unfold Job.mapDesc
  split
  · next t ht => exact (Job.Work.clipsLeave ht (hf t).1 (hf t).2).works
  · exact .refl b

theorem Job.mapDescs_works {f : DescTrack → DescTrack} (hf : ∀ t, DescTrack.Leaves t (f t)) (b : Job) :
    b.Works (b.mapDescs f) :=
  Job.Works.foldl (fun b i => b.mapDesc_works hf i) _ b

theorem Job.retireCues_works (b : Job) : b.Works b.retireCues :=
  b.mapTexts_works fun _ => ⟨_, rfl, List.filter_sublist.map _⟩

theorem Job.retireGaps_works (b : Job) : b.Works b.retireGaps :=
  (Job.Work.gapsLeave (List.filter_sublist.map _)).works

theorem markCue_content (id : Nat) (m : LaneMark) (cs : List Cue) :
    (markCue id m cs).map Cue.content = cs.map Cue.content := by
  simp only [markCue, List.map_map]
  refine List.map_congr_left fun c _ => ?_
  simp only [Function.comp]
  split <;> rfl

theorem Job.text?_of_serviceTrack {b : Job} {sv : Nat} {i : Fin 16} {t : TextTrack}
    (h : b.serviceTrack sv = some (i, t)) : b.text? i = some t := by
  unfold Job.serviceTrack at h
  split at h
  · exact mem_textTracks.mp (List.mem_of_find?_eq_some h)
  · cases h

theorem Job.applyChange_works (b : Job) (ch : LaneChange) : b.Works (b.applyChange ch) := by
  unfold Job.applyChange
  split
  · next i t ht =>
    exact (Job.Work.cuesLeave (Job.text?_of_serviceTrack ht) (by rw [markCue_content])).works
  · exact .refl b

theorem Job.lane_works (b : Job) (l : Lane) : b.Works { b with lane := l } :=
  (Job.Work.aside b.cls l b.park b.lastProducer b.nextArrival).works

theorem Job.park_works (b : Job) (p : Option ParkFlight) : b.Works { b with park := p } :=
  (Job.Work.aside b.cls b.lane p b.lastProducer b.nextArrival).works

theorem Job.cls_works (b : Job) (c : Classifier) : b.Works { b with cls := c } :=
  (Job.Work.aside c b.lane b.park b.lastProducer b.nextArrival).works

theorem Job.arrival_works (b : Job) (n : Nat) : b.Works { b with nextArrival := n } :=
  (Job.Work.aside b.cls b.lane b.park b.lastProducer n).works

theorem Job.completeLane_works (fl : LaneFlight) (b : Job) : b.Works (b.completeLane fl) :=
  (((b.lane_works _).trans (Job.Works.foldl Job.applyChange_works _ _)).trans
    ((Job.report_works _ _ _).trans (Job.report_works _ _ _))).trans (Job.retireCues_works _)

theorem Job.closeLane_works (j : Fin 8) (b : Job) : b.Works (b.closeLane j) := by
  have hskip : ∀ t : TextTrack, ∃ cs, { t with cues := t.cues.map fun c => if c.unshown then { c with lane := .skipped } else c }
      = { t with cues := cs } ∧ (cs.map Cue.content).Sublist (t.cues.map Cue.content) := by
    refine fun t => ⟨_, rfl, ?_⟩
    rw [List.map_map]
    refine (List.map_congr_left fun c _ => ?_) ▸ List.Sublist.refl _
    simp only [Function.comp]
    split <;> rfl
  dsimp only [Job.closeLane]
  split
  all_goals
    refine Job.Works.trans ?_ (Job.lane_works _ _)
    exact (((b.mapTexts_works hskip).trans (Job.lane_works _ _)).trans (Job.report_works _ _ _)).trans
      (Job.retireCues_works _)

theorem Job.holdTest_moves (b : Job) : b.Moves b.holdTest := by
  unfold Job.holdTest
  split
  · next h =>
    simp only [Bool.and_eq_true, beq_iff_eq] at h
    exact (Job.Move.turns (by rw [h.1.1]; exact .held)).moves.trans (Job.report_works _ _ _).moves
  · exact .refl b

/-- Only a HOLDING job becomes HELD by the completion of an emission. -/
theorem Job.holdTest_of_ne {b : Job} (h : b.state ≠ .holding) : b.holdTest = b := by simp [Job.holdTest, h]

end Sys2Proof.Machine
end

section
/-! PROOFS. The request bodies read back (R196): fields of a body built of blocks, presence masks, and each layout. -/

namespace Sys2Proof.Machine

-- No section variable stands here: the option has Lean elaborate one proof after the other (see the byte facts above).
set_option deprecated.oldSectionVars true

/-! ### Fields of a body built of blocks -/

/-- A body holds, from an offset on, numbers of the given widths, one after the other. -/
def Reads (body : List Byte) : Nat → List (Nat × Nat) → Prop
  | _, [] => True
  | o, (k, n) :: bs => field body o k = n ∧ Reads body (o + k) bs

theorem Reads.nil (body : List Byte) (o : Nat) : Reads body o [] := trivial

theorem Reads.append {body : List Byte} {o : Nat} {bs : List (Nat × Nat)} (x : List Byte) (h : Reads body o bs) :
    Reads (x ++ body) (x.length + o) bs := by
  induction bs generalizing o with
  | nil => trivial
  | cons b bs ih =>
    obtain ⟨hb, hbs⟩ := h
    refine ⟨?_, Nat.add_assoc _ _ _ ▸ ih hbs⟩
    rw [field_append_right _ _ _ _ (Nat.le_add_right _ _), Nat.add_sub_cancel_left, hb]

theorem Reads.cons {ys : List Byte} {k n : Nat} {bs : List (Nat × Nat)} (hn : n < 256 ^ k) (h : Reads ys 0 bs) :
    Reads (beBytes k n ++ ys) 0 ((k, n) :: bs) :=
  ⟨field_beBytes k n ys hn, by simpa [Nat.add_comm] using h.append (beBytes k n)⟩

@[simp] theorem field_cons_zero (b : Byte) (ys : List Byte) : field (b :: ys) 0 1 = b.toNat := by
  simp [field, natOfBytes]

theorem Reads.byte {ys : List Byte} {bs : List (Nat × Nat)} (b : Byte) (h : Reads ys 0 bs) :
    Reads (b :: ys) 0 ((1, b.toNat) :: bs) :=
  ⟨field_cons_zero b ys, h.append [b]⟩

theorem Reads.pair {ys : List Byte} {bs : List (Nat × Nat)} (a b : Byte) (h : Reads ys 0 bs) :
    Reads (a :: b :: ys) 0 ((2, a.toNat * 256 + b.toNat) :: bs) :=
  ⟨by simp [field, natOfBytes], h.append [a, b]⟩

theorem field_beBytes_last {k n : Nat} (h : n < 256 ^ k) : field (beBytes k n) 0 k = n := by
  simpa using field_beBytes k n [] h

@[simp] theorem toNat_flagByte_eq_one (b : Bool) : ((flagByte b).toNat == 1) = b := by cases b <;> rfl

@[simp] theorem toNat_flagByte_le_one (b : Bool) : (flagByte b).toNat ≤ 1 := by cases b <;> decide

/-! ### Optional fields and their presence mask -/

theorem presence_cons (b : Bool) (bs : List Bool) : presence (b :: bs) = Nat.bit b (presence bs) := by
  cases b
  · exact Nat.zero_add _
  · exact Nat.add_comm ..

/-- Bit i of a presence mask is the presence of field i. -/
theorem testBit_presence (bs : List Bool) (i : Nat) : (presence bs).testBit i = bs.getD i false := by
  induction bs generalizing i with
  | nil => exact Nat.zero_testBit i
  | cons b bs ih =>
    rw [presence_cons]
    cases i with
    | zero => exact Nat.testBit_bit_zero ..
    | succ i => exact (Nat.testBit_bit_succ ..).trans (ih i)

theorem presence_lt (bs : List Bool) : presence bs < 2 ^ bs.length := by
  induction bs with
  | nil => exact Nat.one_pos
  | cons b bs ih =>
    rw [presence_cons]
    exact Nat.bit_lt_two_pow_succ_iff.mpr ih

/-- A field sent under its presence bit is read back, present or absent. -/
theorem present_presence {bs : List Bool} {i : Nat} {x : Option Nat} (h : bs.getD i false = x.isSome) :
    present (presence bs) i (x.getD 0) = x := by
  rw [present, testBit_presence, h]
  cases x <;> rfl

theorem getD_lt_of_optWithin {lo hi : Nat} {x : Option Nat} (h : optWithin lo hi x = true) {m : Nat} (hm : hi < m) :
    x.getD 0 < m := by
  cases x with
  | none => exact (Nat.zero_le _).trans_lt hm
  | some n =>
    exact (of_decide_eq_true (Bool.and_eq_true_iff.mp h).2).trans_lt hm

theorem within_iff {lo hi n : Nat} : within lo hi n = true ↔ lo ≤ n ∧ n ≤ hi :=
  Bool.and_eq_true_iff.trans (and_congr decide_eq_true_iff decide_eq_true_iff)

theorem optWithin_present {lo hi p i v : Nat} :
    optWithin lo hi (present p i v) = true ↔ (p.testBit i = true → lo ≤ v ∧ v ≤ hi) := by
  unfold present
  cases p.testBit i with
  | true => exact within_iff.trans ⟨fun h _ => h, fun h => h rfl⟩
  | false => exact iff_of_true rfl fun h => by cases h

theorem getD_present {p i v d : Nat} : (present p i v).getD d = if p.testBit i then v else d := by
  unfold present
  cases p.testBit i <;> rfl

theorem getD_present_byte {m v w d i : Nat} {p : Byte} (hm : m = p.toNat) (hv : v = w) :
    (present m i v).getD d = if p.getLsbD i then w else d := by
  rw [hm, hv, getD_present, BitVec.testBit_toNat]

/-! ### Tests in a row -/

theorem and3_iff {a b c : Bool} : (a && b && c) = true ↔ a = true ∧ b = true ∧ c = true := by
  rw [Bool.and_eq_true_iff, Bool.and_eq_true_iff, and_assoc]

theorem and4_iff {a b c d : Bool} : (a && b && c && d) = true ↔ a = true ∧ b = true ∧ c = true ∧ d = true := by
  rw [Bool.and_eq_true_iff, and3_iff, and_assoc, and_assoc]

theorem and5_iff {a b c d e : Bool} :
    (a && b && c && d && e) = true ↔ a = true ∧ b = true ∧ c = true ∧ d = true ∧ e = true := by
  rw [Bool.and_eq_true_iff, and4_iff, and_assoc, and_assoc, and_assoc]

theorem and8_iff {a b c d e f g h : Bool} : (a && b && c && d && e && f && g && h) = true ↔
    a = true ∧ b = true ∧ c = true ∧ d = true ∧ e = true ∧ f = true ∧ g = true ∧ h = true := by
  rw [and5_iff, and4_iff, and_assoc, and_assoc, and_assoc]

theorem not_or_iff {b : Bool} {p : Prop} [Decidable p] : (!b || decide p) = true ↔ (b = true → p) := by
  cases b with
  | true => exact decide_eq_true_iff.trans ⟨fun h _ => h, fun h => h rfl⟩
  | false => exact iff_of_true rfl fun h => by cases h

/-! ### Bytes in a row -/

theorem Reads.nums {ys : List Byte} {bs : List (Nat × Nat)} {ts : List Nat} (ht : ∀ t ∈ ts, t < 256 ^ 1) (h : Reads ys 0 bs) :
    Reads (ts.flatMap (beBytes 1) ++ ys) 0 (ts.map (fun t => (1, t)) ++ bs) := by
  induction ts with
  | nil => exact h
  | cons t ts ih =>
    obtain ⟨h1, h2⟩ := List.forall_mem_cons.mp ht
    rw [List.flatMap_cons, List.append_assoc]
    exact .cons h1 (ih h2)

theorem Reads.bytes {ys : List Byte} {bs : List (Nat × Nat)} (ts : List Byte) (h : Reads ys 0 bs) :
    Reads (ts ++ ys) 0 ((ts.map BitVec.toNat).map (fun t => (1, t)) ++ bs) := by
  induction ts with
  | nil => exact h
  | cons t ts ih => exact .byte t ih

/-- A row of bytes, and what follows it. -/
theorem Reads.row {body : List Byte} {ts : List Nat} {o : Nat} {bs : List (Nat × Nat)}
    (h : Reads body o (ts.map (fun t => (1, t)) ++ bs)) :
    (List.range' o ts.length).map (fun i => field body i 1) = ts ∧ Reads body (o + ts.length) bs := by
  induction ts generalizing o with
  | nil => exact ⟨rfl, h⟩
  | cons t ts ih =>
    obtain ⟨ht, hts⟩ := h
    obtain ⟨h1, h2⟩ := ih hts
    refine ⟨congrArg₂ List.cons ht h1, ?_⟩
    rw [List.length_cons, Nat.add_comm ts.length, ← Nat.add_assoc]
    exact h2

theorem length_flatMap_one (ts : List Nat) : (ts.flatMap (beBytes 1)).length = ts.length := by
  induction ts with
  | nil => rfl
  | cons t ts ih => rw [List.flatMap_cons, List.length_append, ih, Nat.add_comm]; rfl

theorem ofNat_toNat_byte (b : Byte) : BitVec.ofNat 8 b.toNat = b := (BitVec.ofNat_toNat ..).trans (BitVec.setWidth_eq b)

/-! ### What the bodies of the settings are read as, and when -/

/-- The fields of a JOPN body. -/
noncomputable def readJopn (body : List Byte) : JopnFields :=
  ⟨field body 1 4, field body 5 2, field body 7 2, present (field body 0 1) 0 (field body 9 2),
    present (field body 0 1) 1 (field body 11 2), present (field body 0 1) 2 (field body 13 4)⟩

theorem parseJopn_iff {body : List Byte} {f : JopnFields} : parseJopn body = some f ↔
    (body.length = 17 ∧ field body 0 1 < 8 ∧ (readJopn body).valid = true) ∧ readJopn body = f :=
  Option.ite_none_right_eq_some.trans (and_congr (and3_iff.trans (and_congr decide_eq_true_iff
    (and_congr_left' decide_eq_true_iff))) Option.some_inj)

theorem rateOk_iff {num den : Nat} : rateOk num den = true ↔
    (1 ≤ den ∧ den ≤ 1001) ∧ num ≤ 240000 ∧ 10 * den ≤ num ∧ num ≤ 120 * den :=
  and4_iff.trans (and_congr within_iff (and_congr decide_eq_true_iff (and_congr decide_eq_true_iff decide_eq_true_iff)))

theorem JopnFields.valid_iff {f : JopnFields} : f.valid = true ↔ rateOk f.num f.den = true ∧ (8 ≤ f.segLen ∧ f.segLen ≤ 720) ∧
    optWithin 16 4096 f.cueQuota = true ∧ optWithin 4 1024 f.clipQuota = true ∧ f.span ≠ some 0 :=
  and5_iff.trans (and_congr_right' (and_congr within_iff (and_congr_right' (and_congr_right' bne_iff_ne))))

theorem LaneSettings.valid_iff {x : LaneSettings} : x.valid = true ↔
    (x.symbols = 2 ∨ x.symbols = 4) ∧ (8 ≤ x.lookahead ∧ x.lookahead ≤ 600) ∧ 0x20 ≤ x.subst ∧ x.subst ≤ 0x7E :=
  and3_iff.trans (and_congr (Bool.or_eq_true_iff.trans (or_congr beq_iff_eq beq_iff_eq)) (and_congr within_iff within_iff))

/-- The settings of an LSET body with a parity. -/
noncomputable def readLset (body : List Byte) (y : Parity) : LaneSettings :=
  ⟨field body 1 1 == 1, field body 2 1, (present (field body 0 1) 0 (field body 3 2)).getD 120, y,
    (present (field body 0 1) 2 (field body 6 1)).getD 0x3F⟩

theorem parseLset_eq {body : List Byte} {y : Parity} (h : (if (field body 0 1).testBit 1 then Parity.ofCode (field body 5 1)
      else some LaneSettings.default.parity) = some y) : parseLset body =
    if (decide (body.length = 7) && decide (field body 0 1 < 8) && decide (field body 1 1 ≤ 1) &&
      (readLset body y).valid) = true then some (readLset body y) else none := by
  unfold parseLset
  dsimp only
  rw [h]
  rfl

/-- The settings of a DSET body over those in force. -/
noncomputable def readDset (old : DetSettings) (body : List Byte) : DetSettings :=
  { thresholds := [1, 2, 3, 4, 5, 6, 7, 8].map fun o => field body o 1
    sampleMask := BitVec.ofNat 8 (field body 9 1), debounceMask := BitVec.ofNat 8 (field body 10 1),
    speech := field body 11 1, gapDebounce := (present (field body 0 1) 0 (field body 12 1)).getD old.gapDebounce,
    speechDebounce := (present (field body 0 1) 1 (field body 13 1)).getD old.speechDebounce,
    mixedRestart := if (field body 0 1).testBit 2 then field body 14 1 == 1 else old.mixedRestart,
    holeLimit := (present (field body 0 1) 3 (field body 15 2)).getD old.holeLimit }

theorem detSettings_congr {t t' : List Nat} {m m' n n' : Byte} {s s' g g' d d' h h' : Nat} {r r' : Bool} (ht : t = t')
    (hm : m = m') (hn : n = n') (hs : s = s') (hg : g = g') (hd : d = d') (hr : r = r') (hh : h = h') :
    (⟨t, m, n, s, g, d, r, h⟩ : DetSettings) = ⟨t', m', n', s', g', d', r', h'⟩ := by
  rw [ht, hm, hn, hs, hg, hd, hr, hh]

theorem parseDset_iff {old x : DetSettings} {body : List Byte} : parseDset old body = some x ↔
    (body.length = 17 ∧ field body 0 1 < 16 ∧ ((field body 0 1).testBit 2 = true → field body 14 1 ≤ 1) ∧
      (readDset old body).valid = true) ∧ readDset old body = x :=
  Option.ite_none_right_eq_some.trans (and_congr (and4_iff.trans (and_congr decide_eq_true_iff
    (and_congr decide_eq_true_iff (and_congr_left' not_or_iff)))) Option.some_inj)

/-- The policy a body of DUCK names. -/
theorem policy_of_body {p n : Nat} (h : p.testBit 8 = true → n ≤ 1) :
    (if p.testBit 8 then (Policy.ofCode n).map some else some none) =
      some (if p.testBit 8 then some (if n = 0 then Policy.duckOver else .drop) else none) := by
  cases hp : p.testBit 8 with
  | false => rfl
  | true => rcases Nat.le_one_iff_eq_zero_or_eq_one.mp (h hp) with rfl | rfl <;> rfl

theorem ofCode_policy_none {n : Nat} (h : ¬n ≤ 1) : Policy.ofCode n = none := by
  obtain ⟨k, rfl⟩ := Nat.exists_eq_add_of_le' (Nat.lt_of_not_le h)
  rfl

/-- The fields of a DUCK body. -/
noncomputable def duckFieldsOf (body : List Byte) (h : field body 0 1 < 16) : DuckFields :=
  { track := ⟨field body 0 1, h⟩, depth := present (field body 1 2) 0 (field body 3 1),
    extra := present (field body 1 2) 1 (field body 4 1), rampDown := present (field body 1 2) 2 (field body 5 4),
    rampUp := present (field body 1 2) 3 (field body 9 4), mergeGap := present (field body 1 2) 4 (field body 13 4),
    lead := present (field body 1 2) 5 (field body 17 4), tail := present (field body 1 2) 6 (field body 21 4),
    spacing := present (field body 1 2) 7 (field body 25 4),
    policy := if (field body 1 2).testBit 8 then some (if field body 29 1 = 0 then .duckOver else .drop) else none }

theorem parseDuck_iff {body : List Byte} {f : DuckFields} : parseDuck body = some f ↔
    ∃ h : field body 0 1 < 16, ((field body 1 2).testBit 8 = true → field body 29 1 ≤ 1) ∧
      (body.length = 30 ∧ field body 1 2 < 512 ∧ (duckFieldsOf body h).valid = true) ∧ duckFieldsOf body h = f := by
  by_cases h : field body 0 1 < 16
  · refine (iff_of_eq (congrArg (· = some f) (dif_pos h))).trans ?_
    by_cases hpol : (field body 1 2).testBit 8 = true → field body 29 1 ≤ 1
    · rw [policy_of_body hpol]
      refine (Option.ite_none_right_eq_some.trans (and_congr (and3_iff.trans (and_congr decide_eq_true_iff
        (and_congr_left' decide_eq_true_iff))) Option.some_inj)).trans ⟨fun hf => ⟨h, hpol, hf⟩, fun hf => ?_⟩
      obtain ⟨_, -, hf⟩ := hf
      exact hf
    · obtain ⟨hbit, hbig⟩ := Classical.not_imp.mp hpol
      rw [if_pos hbit, ofCode_policy_none hbig]
      exact ⟨fun hf => (by cases hf), fun hf => absurd hf.choose_spec.1 hpol⟩
  · refine (iff_of_eq (congrArg (· = some f) (dif_neg h))).trans ⟨fun hf => (by cases hf), fun hf => absurd hf.choose h⟩

/-! ### The settings -/

theorem parseJopn_encodeJopn {f : JopnFields} (h : f.valid = true) (hspan : ∀ n, f.span = some n → n < 2 ^ 32) :
    parseJopn (encodeJopn f) = some f := by
  obtain ⟨hrate, ⟨-, hseg⟩, hcue, hclip, -⟩ := JopnFields.valid_iff.mp h
  obtain ⟨⟨-, hden⟩, hnum, -⟩ := rateOk_iff.mp hrate
  have hs : f.span.getD 0 < 256 ^ 4 := by
    cases hf : f.span with
    | none => decide
    | some n => exact hspan n hf
  have hp : presence [f.cueQuota.isSome, f.clipQuota.isSome, f.span.isSome] < 8 := presence_lt _
  have hr : Reads (encodeJopn f) 0 [(1, presence [f.cueQuota.isSome, f.clipQuota.isSome, f.span.isSome]), (4, f.num),
      (2, f.den), (2, f.segLen), (2, f.cueQuota.getD 0), (2, f.clipQuota.getD 0), (4, f.span.getD 0)] :=
    .cons (hp.trans (by decide)) <| .cons (hnum.trans_lt (by decide)) <| .cons (hden.trans_lt (by decide)) <|
      .cons (hseg.trans_lt (by decide)) <| .cons (getD_lt_of_optWithin hcue (by decide)) <|
      .cons (getD_lt_of_optWithin hclip (by decide)) <| .cons (ys := []) hs <| .nil _ _
  obtain ⟨e0, e1, e2, e3, e4, e5, e6, -⟩ := hr
  dsimp only [Nat.reduceAdd] at e1 e2 e3 e4 e5 e6
  have heq : readJopn (encodeJopn f) = f := by
    rw [readJopn, e0, e1, e2, e3, e4, e5, e6, present_presence rfl, present_presence rfl, present_presence rfl]
  exact parseJopn_iff.mpr ⟨⟨rfl, e0.trans_lt hp, (congrArg JopnFields.valid heq).trans h⟩, heq⟩

theorem parseTdef_encodeTdef {f : TdefFields} (h : f.valid = true) : parseTdef (encodeTdef f) = some f := by
  obtain ⟨track, desc, language, segOut, service⟩ := f
  have hv := h
  simp only [TdefFields.valid, trackOk, Bool.and_eq_true, decide_eq_true_eq] at hv
  obtain ⟨⟨⟨hlang, -⟩, hservice⟩, -⟩ := hv
  obtain ⟨a, b, c, rfl⟩ := List.length_eq_three.mp hlang
  have ht := track.isLt
  have ht' : (track : Nat) < 256 ^ 1 := ht.trans (by decide)
  have hs : service < 256 ^ 1 := hservice.trans_lt (by decide)
  have hr : Reads (encodeTdef ⟨track, desc, [a, b, c], segOut, service⟩) 0 [(1, track), (1, (flagByte desc).toNat),
      (1, a.toNat), (1, b.toNat), (1, c.toNat), (1, (flagByte segOut).toNat), (1, service)] :=
    .cons ht' <| .byte _ <| .byte a <| .byte b <| .byte c <| .byte _ <| .cons (ys := []) hs <| .nil _ _
  dsimp only [Reads, Nat.reduceAdd] at hr
  have hlang' : ((encodeTdef ⟨track, desc, [a, b, c], segOut, service⟩).drop 2).take 3 = [a, b, c] := rfl
  have hlen : (encodeTdef ⟨track, desc, [a, b, c], segOut, service⟩).length = 7 := rfl
  simp [parseTdef, hr, hlang', hlen, h]

theorem parseLset_encodeLset {x : LaneSettings} (h : x.valid = true) : parseLset (encodeLset x) = some x := by
  obtain ⟨hsym, ⟨-, hlook⟩, -, hsubst⟩ := LaneSettings.valid_iff.mp h
  have hcode : x.parity.code < 256 ^ 1 := by cases x.parity <;> decide
  have hpar : Parity.ofCode x.parity.code = some x.parity := by cases x.parity <;> rfl
  have hsym' : x.symbols < 256 ^ 1 := by rcases hsym with hs | hs <;> rw [hs] <;> decide
  have hr : Reads (encodeLset x) 0 [(1, 7), (1, (flagByte x.enabled).toNat), (1, x.symbols), (2, x.lookahead),
      (1, x.parity.code), (1, x.subst)] :=
    .cons (by decide) <| .byte _ <| .cons hsym' <| .cons (hlook.trans_lt (by decide)) <| .cons hcode <|
      .cons (ys := []) (hsubst.trans_lt (by decide)) <| .nil _ _
  obtain ⟨e0, e1, e2, e3, e4, e5, -⟩ := hr
  dsimp only [Nat.reduceAdd] at e1 e2 e3 e4 e5
  have heq : readLset (encodeLset x) x.parity = x := by
    rw [readLset, e0, e1, e2, e3, e5, toNat_flagByte_eq_one]
    rfl
  rw [parseLset_eq (y := x.parity) (by rw [e0, e4, hpar]; rfl), heq]
  exact if_pos (and4_iff.mpr ⟨rfl, decide_eq_true (e0.trans_lt (by decide)), decide_eq_true (e1.trans_le
    (toNat_flagByte_le_one _)), h⟩)

theorem parseDset_encodeDset {old x : DetSettings} (h : x.valid = true) : parseDset old (encodeDset x) = some x := by
  obtain ⟨hlen, hth, -, hspeech, -, hgap, hsd, hhole⟩ := and8_iff.mp h
  have hlen := of_decide_eq_true hlen
  have hlt : ∀ t ∈ x.thresholds, t < 256 ^ 1 := fun t ht => Nat.lt_succ_of_le (of_decide_eq_true (List.all_eq_true.mp hth t ht))
  have hbytes : encodeDset x = beBytes 1 15 ++ (x.thresholds.flatMap (beBytes 1) ++ ([x.sampleMask, x.debounceMask] ++
      beBytes 1 x.speech ++ beBytes 1 x.gapDebounce ++ beBytes 1 x.speechDebounce ++ [flagByte x.mixedRestart] ++
      beBytes 2 x.holeLimit)) := by simp only [encodeDset, List.append_assoc]
  have hr : Reads (encodeDset x) 0 ((1, 15) :: (x.thresholds.map (fun t => (1, t)) ++ [(1, x.sampleMask.toNat),
      (1, x.debounceMask.toNat), (1, x.speech), (1, x.gapDebounce), (1, x.speechDebounce),
      (1, (flagByte x.mixedRestart).toNat), (2, x.holeLimit)])) := by
    rw [hbytes]
    exact .cons (by decide) <| .nums hlt <| .byte _ <| .byte _ <| .cons ((of_decide_eq_true hspeech).trans_lt (by decide)) <|
      .cons ((within_iff.mp hgap).2.trans_lt (by decide)) <| .cons ((within_iff.mp hsd).2.trans_lt (by decide)) <|
      .byte _ <| .cons (ys := []) ((within_iff.mp hhole).2.trans_lt (by decide)) <| .nil _ _
  have hall : (encodeDset x).length = 17 := by
    rw [hbytes, List.length_append, List.length_append, length_flatMap_one, hlen]
    rfl
  obtain ⟨e0, hrow⟩ := hr
  obtain ⟨hts, e9, e10, e11, e12, e13, e14, e15, -⟩ := hrow.row
  rw [hlen] at hts e9 e10 e11 e12 e13 e14 e15
  dsimp only [Nat.reduceAdd] at hts e9 e10 e11 e12 e13 e14 e15
  have hall4 : ∀ {i v w d : Nat}, (15).testBit i = true → v = w → (present (field (encodeDset x) 0 1) i v).getD d = w :=
    fun hi hv => by rw [e0, hv, getD_present, if_pos hi]
  have heq : readDset old (encodeDset x) = x :=
    detSettings_congr hts ((congrArg _ e9).trans (ofNat_toNat_byte _)) ((congrArg _ e10).trans (ofNat_toNat_byte _)) e11
      (hall4 rfl e12) (hall4 rfl e13) ((if_pos (e0 ▸ rfl)).trans ((congrArg (· == 1) e14).trans (toNat_flagByte_eq_one _)))
      (hall4 rfl e15)
  exact parseDset_iff.mpr ⟨⟨hall, e0.trans_lt (by decide), fun _ => e14.trans_le (toNat_flagByte_le_one _),
    (congrArg DetSettings.valid heq).trans h⟩, heq⟩

theorem parseDuck_encodeDuck {f : DuckFields} (h : f.valid = true) : parseDuck (encodeDuck f) = some f := by
  obtain ⟨v0, v1, v2, v3, v4, v5, v6, v7⟩ := and8_iff.mp h
  have b8 : (f.policy.map Policy.code).getD 0 ≤ 1 := by rcases f.policy with _ | _ | _ <;> decide
  obtain ⟨bits, hbits⟩ : ∃ bits, bits = [f.depth.isSome, f.extra.isSome, f.rampDown.isSome, f.rampUp.isSome,
    f.mergeGap.isSome, f.lead.isSome, f.tail.isSome, f.spacing.isSome, f.policy.isSome] := ⟨_, rfl⟩
  have hp : presence bits < 512 := (presence_lt bits).trans_eq (congrArg (2 ^ ·) (show bits.length = 9 from hbits ▸ rfl))
  have hr : Reads (encodeDuck f) 0 [(1, f.track), (2, presence bits), (1, f.depth.getD 0), (1, f.extra.getD 0),
      (4, f.rampDown.getD 0), (4, f.rampUp.getD 0), (4, f.mergeGap.getD 0), (4, f.lead.getD 0), (4, f.tail.getD 0),
      (4, f.spacing.getD 0), (1, (f.policy.map Policy.code).getD 0)] := by
    rw [encodeDuck, ← hbits]
    exact .cons (f.track.isLt.trans (by decide)) <| .cons (hp.trans (by decide)) <|
      .cons (getD_lt_of_optWithin v0 (by decide)) <| .cons (getD_lt_of_optWithin v1 (by decide)) <|
      .cons (getD_lt_of_optWithin v2 (by decide)) <| .cons (getD_lt_of_optWithin v3 (by decide)) <|
      .cons (getD_lt_of_optWithin v4 (by decide)) <| .cons (getD_lt_of_optWithin v5 (by decide)) <|
      .cons (getD_lt_of_optWithin v6 (by decide)) <| .cons (getD_lt_of_optWithin v7 (by decide)) <|
      .cons (ys := []) (b8.trans_lt (by decide)) <| .nil _ _
  obtain ⟨e0, e1, e2, e3, e4, e5, e6, e7, e8, e9, e10, -⟩ := hr
  dsimp only [Nat.reduceAdd] at e1 e2 e3 e4 e5 e6 e7 e8 e9 e10
  have hbit : ∀ {i : Nat} {x : Option Nat}, bits.getD i false = x.isSome → present (presence bits) i (x.getD 0) = x :=
    present_presence
  have hpol : (if (presence bits).testBit 8 then some (if (f.policy.map Policy.code).getD 0 = 0 then Policy.duckOver else .drop)
      else none) = f.policy := by
    rw [testBit_presence, hbits]
    show (if f.policy.isSome = true then _ else _) = _
    rcases f.policy with _ | _ | _ <;> rfl
  have htrack : field (encodeDuck f) 0 1 < 16 := e0.trans_lt f.track.isLt
  have heq : duckFieldsOf (encodeDuck f) htrack = f := by
    unfold duckFieldsOf
    rw [e1, e2, e3, e4, e5, e6, e7, e8, e9, e10, hpol, hbit (hbits ▸ rfl), hbit (hbits ▸ rfl), hbit (hbits ▸ rfl),
      hbit (hbits ▸ rfl), hbit (hbits ▸ rfl), hbit (hbits ▸ rfl), hbit (hbits ▸ rfl), hbit (hbits ▸ rfl)]
    exact congrArg (fun i => { f with track := i }) (Fin.ext e0 : (⟨_, htrack⟩ : Fin 16) = f.track)
  exact parseDuck_iff.mpr ⟨htrack, fun _ => e10.trans_le b8, ⟨rfl, e1.trans_lt hp, (congrArg DuckFields.valid heq).trans h⟩,
    heq⟩

/-! ### Data requests -/

theorem parseRevoke_encodeRevoke (i : Fin 16) {id : Nat} (h : id < 2 ^ 32) :
    parseRevoke (encodeRevoke i id) = some (i, id) := by
  have ht : (i : Nat) < 256 ^ 1 := i.isLt.trans (by decide)
  have hid : id < 256 ^ 4 := h
  have hr : Reads (encodeRevoke i id) 0 [(1, i), (4, id)] := .cons ht <| .cons (ys := []) hid <| .nil _ _
  dsimp only [Reads, Nat.reduceAdd] at hr
  simp [parseRevoke, hr, show (encodeRevoke i id).length = 5 from rfl]

theorem parseClip_encodeClip {f : ClipFields} (h : f.valid = true) (hid : f.id < 2 ^ 32) (href : f.ref < 2 ^ 32)
    (hs : f.startMs < 2 ^ 32) (hl : f.latestMs < 2 ^ 32) : parseClip (encodeClip f) = some f := by
  have hv := h
  simp only [ClipFields.valid, Bool.and_eq_true, within_iff] at hv
  obtain ⟨⟨-, -, hdur⟩, hdepth⟩ := hv
  have hd := getD_lt_of_optWithin hdepth (m := 256 ^ 1) (by norm_num)
  have hov : (if f.depthOv.getD 0 = 0 then none else some (f.depthOv.getD 0)) = f.depthOv := by
    cases ho : f.depthOv with
    | none => rfl
    | some a =>
      simp only [ho, optWithin, within_iff] at hdepth
      exact if_neg (Nat.ne_of_gt (Nat.lt_of_lt_of_le (by decide) hdepth.1))
  have ht : (f.track : Nat) < 256 ^ 1 := f.track.isLt.trans (by decide)
  have h1 : f.id < 256 ^ 4 := hid
  have h2 : f.ref < 256 ^ 4 := href
  have h3 : f.startMs < 256 ^ 4 := hs
  have h4 : f.latestMs < 256 ^ 4 := hl
  have h5 : f.dur < 256 ^ 4 := hdur.trans_lt (by decide)
  have hr : Reads (encodeClip f) 0 [(1, f.track), (4, f.id), (4, f.ref), (4, f.startMs), (4, f.latestMs), (4, f.dur),
      (1, f.depthOv.getD 0)] :=
    .cons ht <| .cons h1 <| .cons h2 <| .cons h3 <| .cons h4 <| .cons h5 <| .cons (ys := []) hd <| .nil _ _
  dsimp only [Reads, Nat.reduceAdd] at hr
  simp [parseClip, hr, show (encodeClip f).length = 22 from rfl, hov, h]

theorem parseCue_encodeCue {f : CueFields} (h : f.valid = true) (hne : f.laneText ≠ some []) (hid : f.id < 2 ^ 32)
    (hs : f.startMs < 2 ^ 32) (he : f.endMs < 2 ^ 32) : parseCue (encodeCue f) = some f := by
  have hv := h
  simp only [CueFields.valid, Bool.and_eq_true, decide_eq_true_eq, within_iff] at hv
  obtain ⟨⟨-, -, htext⟩, hlane⟩ := hv
  have ht : (f.track : Nat) < 256 ^ 1 := f.track.isLt.trans (by decide)
  have h1 : f.id < 256 ^ 4 := hid
  have h2 : f.startMs < 256 ^ 4 := hs
  have h3 : f.endMs < 256 ^ 4 := he
  have h4 : f.text.length < 256 ^ 2 := htext.trans_lt (by decide)
  have h5 : textLen f.laneText < 256 ^ 1 := hlane.trans_lt (by decide)
  have hreg : f.region.code < 256 ^ 1 := by cases f.region <;> decide
  have hreg' : Region.ofCode f.region.code = some f.region := by cases f.region <;> rfl
  have hgetD : (f.laneText.getD []).length = textLen f.laneText := by cases f.laneText <;> rfl
  have htake : (f.laneText.getD []).take (textLen f.laneText) = f.laneText.getD [] :=
    List.take_of_length_le hgetD.le
  have hof : laneTextOf (f.laneText.getD []) = f.laneText := by
    cases hl : f.laneText with
    | none => rfl
    | some t => cases t with
      | nil => exact absurd hl hne
      | cons => rfl
  have hbytes : encodeCue f = beBytes 1 f.track.val ++ (beBytes 4 f.id ++ (beBytes 4 f.startMs ++ (beBytes 4 f.endMs ++
      (beBytes 1 f.region.code ++ (beBytes 2 f.text.length ++ (beBytes 1 (textLen f.laneText) ++
        (f.text ++ f.laneText.getD []))))))) := by simp [encodeCue]
  have hdrop : (encodeCue f).drop 17 = f.text ++ f.laneText.getD [] := by rw [hbytes]; rfl
  have htext' : ((encodeCue f).drop 17).take f.text.length = f.text := by rw [hdrop, List.take_left]
  have hlane' : (encodeCue f).drop (17 + f.text.length) = f.laneText.getD [] := by
    rw [← List.drop_drop, hdrop, List.drop_left]
  have hlen : (encodeCue f).length = 17 + f.text.length + textLen f.laneText := by
    have hdl := congrArg List.length hdrop
    have h17 : 17 ≤ (encodeCue f).length := by rw [hbytes]; exact Nat.le_add_left _ _
    rw [List.length_drop, List.length_append, hgetD] at hdl
    exact ((Nat.sub_eq_iff_eq_add' h17).mp hdl).trans (Nat.add_assoc ..).symm
  have hr : Reads (encodeCue f) 0 [(1, f.track), (4, f.id), (4, f.startMs), (4, f.endMs), (1, f.region.code),
      (2, f.text.length), (1, textLen f.laneText)] := by
    rw [hbytes]
    exact .cons ht <| .cons h1 <| .cons h2 <| .cons h3 <| .cons hreg <| .cons h4 <| .cons h5 <| .nil _ _
  dsimp only [Reads, Nat.reduceAdd] at hr
  simp [parseCue, hr, hreg', htext', hlane', htake, hof, hlen, h]

/-! ### Levels, words and the header of UNPK -/

theorem levelsOf_append {v : Levels} (h : v.v0 < 256 ∧ v.v1 < 256 ∧ v.v2 < 256) (rest : List Byte) :
    levelsOf (beBytes 1 v.v0 ++ beBytes 1 v.v1 ++ beBytes 1 v.v2 ++ rest) = v :: levelsOf rest := by
  obtain ⟨h0, h1, h2⟩ := h
  have hb : ∀ {n}, n < 256 → (BitVec.ofNat 8 (n / 1)).toNat = n := fun h =>
    (BitVec.toNat_ofNat _ 8).trans ((Nat.mod_eq_of_lt ((Nat.div_one _).trans_lt h)).trans (Nat.div_one _))
  exact congr (congrArg List.cons (congr (congr (congrArg Levels.mk (hb h0)) (hb h1)) (hb h2))) rfl

theorem levelsOf_flatMap {ws : List Levels} (h : ∀ v ∈ ws, v.v0 < 256 ∧ v.v1 < 256 ∧ v.v2 < 256) :
    levelsOf (ws.flatMap fun v => beBytes 1 v.v0 ++ beBytes 1 v.v1 ++ beBytes 1 v.v2) = ws := by
  induction ws with
  | nil => rfl
  | cons v ws ih =>
    obtain ⟨hv, hrest⟩ := List.forall_mem_cons.mp h
    rw [List.flatMap_cons, levelsOf_append hv, ih hrest]

theorem length_flatMap_levels (ws : List Levels) :
    (ws.flatMap fun v => beBytes 1 v.v0 ++ beBytes 1 v.v1 ++ beBytes 1 v.v2).length = 3 * ws.length := by
  induction ws with
  | nil => rfl
  | cons v ws ih =>
    rw [List.flatMap_cons, List.length_append, ih]
    exact Nat.add_comm 3 _

theorem parseLvl_encodeLvl {f : LvlFields} (h1 : 1 ≤ f.windows.length) (h32 : f.windows.length ≤ 32)
    (hf : f.first < 2 ^ 32) (hw : ∀ v ∈ f.windows, v.v0 < 256 ∧ v.v1 < 256 ∧ v.v2 < 256) :
    parseLvl (encodeLvl f) = some f := by
  have hlen := length_flatMap_levels f.windows
  have hlevels := levelsOf_flatMap hw
  have h1' : f.first < 256 ^ 4 := hf
  have h2' : f.windows.length < 256 ^ 1 := h32.trans_lt (by decide)
  have hbytes : encodeLvl f = beBytes 4 f.first ++ (beBytes 1 f.windows.length ++
      f.windows.flatMap fun v => beBytes 1 v.v0 ++ beBytes 1 v.v1 ++ beBytes 1 v.v2) := List.append_assoc _ _ _
  have hr : Reads (encodeLvl f) 0 [(4, f.first), (1, f.windows.length)] := by
    rw [hbytes]; exact .cons h1' <| .cons h2' <| .nil _ _
  dsimp only [Reads, Nat.reduceAdd] at hr
  have hdrop : (encodeLvl f).drop 5 = f.windows.flatMap fun v => beBytes 1 v.v0 ++ beBytes 1 v.v1 ++ beBytes 1 v.v2 := by
    rw [hbytes]; rfl
  have hall : (encodeLvl f).length = 5 + 3 * f.windows.length := by
    rw [encodeLvl, List.length_append, hlen]; rfl
  rw [parseLvl, hr.2.1, hr.1, hdrop, hlevels, hall]
  exact if_pos (by simp [within, h1, h32])

theorem parseUnpk_header {h : CtxHeader} (rest : List Byte) (h0 : h.serial < 2 ^ 16) (h1 : h.form < 256)
    (h2 : h.part < 256) (h3 : h.parts < 256) :
    parseUnpk (beBytes 2 h.serial ++ beBytes 1 h.form ++ beBytes 1 h.part ++ beBytes 1 h.parts ++ rest) = some h := by
  have h0' : h.serial < 256 ^ 2 := h0
  have h1' : h.form < 256 ^ 1 := h1
  have h2' : h.part < 256 ^ 1 := h2
  have h3' : h.parts < 256 ^ 1 := h3
  have hr := Reads.cons h0' <| Reads.cons h1' <| Reads.cons h2' <| Reads.cons h3' <| Reads.nil rest 0
  dsimp only [Reads, Nat.reduceAdd] at hr
  obtain ⟨e0, e1, e2, e3, -⟩ := hr
  simp only [List.append_assoc, parseUnpk, e0, e1, e2, e3]
  exact if_neg (Nat.not_lt.mpr (Nat.le_add_left 5 rest.length))

/-- Settles O11: layout by layout, each block of a body read at its offset and each optional field under its presence
bit. -/
theorem requestBodiesReadBack : Obligations.RequestBodiesReadBack :=
  ⟨fun _ => parseJopn_encodeJopn, fun _ => parseTdef_encodeTdef, fun _ => parseLset_encodeLset,
    fun _ _ => parseDset_encodeDset, fun _ => parseDuck_encodeDuck, fun _ => parseCue_encodeCue,
    fun _ => parseClip_encodeClip, fun _ => parseLvl_encodeLvl, fun i _ => parseRevoke_encodeRevoke i,
    fun n hn => ⟨parseWord_beBytes hn, by simp [parseJgo, field_beBytes_last (k := 4) hn]⟩, rfl,
    fun n hn => by simp [parseGqry, field_beBytes_last (k := 1) (hn.trans_lt (by decide)), hn],
    fun _ rest => parseUnpk_header rest⟩

end Sys2Proof.Machine
end

section
/-! PROOFS. Output times (R7), and a record's frame received byte by byte (R176, R177). -/

namespace Sys2Proof.Machine

-- No section variable stands here: the option has Lean elaborate one proof after the other (see the byte facts above).
set_option deprecated.oldSectionVars true

/-! ### Output times (R7) -/

theorem outMs_eq_roundHalfUp (tb : Timebase) (f : Nat) : tb.outMs f = roundHalfUp (f * (tb.den * 1000)) tb.num := by
  simp only [Timebase.outMs, roundHalfUp, mul_assoc]

theorem outMs_bounds {tb : Timebase} (hn : 0 < tb.num) (f : Nat) :
    2 * tb.outMs f * tb.num ≤ 2 * f * (tb.den * 1000) + tb.num ∧
      2 * f * (tb.den * 1000) < (2 * tb.outMs f + 1) * tb.num := by
  rw [outMs_eq_roundHalfUp, mul_assoc 2 f]
  exact roundHalfUp_bounds _ hn

theorem num_lt_den_mul {tb : Timebase} (hn : 0 < tb.num) (hmax : tb.num ≤ 120 * tb.den) : tb.num < tb.den * 1000 :=
  have hd : 0 < tb.den := Nat.pos_of_ne_zero fun h => Nat.not_lt.mpr hmax (h ▸ hn)
  hmax.trans_lt ((Nat.mul_comm ..).trans_lt (Nat.mul_lt_mul_of_pos_left (by decide) hd))

/-- A frame at no more than 120 frames per second lasts more than a millisecond. -/
theorem outMs_lt_succ {tb : Timebase} (hn : 0 < tb.num) (hmax : tb.num ≤ 120 * tb.den) (f : Nat) :
    tb.outMs f < tb.outMs (f + 1) :=
  outTimes_rise (o := fun i => tb.outMs (f + i)) (num_lt_den_mul hn hmax).le (fun i => (outMs_bounds hn (f + i)).1)
    fun i => (outMs_bounds hn (f + i)).2

/-- An output time is off its frame's exact time by half a millisecond at most, less than half a frame. -/
theorem frameOf_outMs {tb : Timebase} (hn : 0 < tb.num) (hmax : tb.num ≤ 120 * tb.den) (f : Nat) :
    tb.frameOf (tb.outMs f) = f := by
  rw [frameOf_eq_roundHalfUp, roundHalfUp_eq_iff (hn.trans (num_lt_den_mul hn hmax))]
  exact outTimes_frame (o := fun i => tb.outMs (f + i)) (num_lt_den_mul hn hmax) (fun i => (outMs_bounds hn (f + i)).1)
    fun i => (outMs_bounds hn (f + i)).2

/-- Settles O9: by the bounds of the rounded output time, whose error is below half a frame. -/
theorem outputTimeReturnsItsFrame : Obligations.OutputTimeReturnsItsFrame := by
  intro tb hr
  obtain ⟨hn, hmax⟩ := rateOk_bounds hr
  exact ⟨outMs_bounds hn, outMs_lt_succ hn hmax, frameOf_outMs hn hmax⟩

/-! ### A record's frame (R176, R177) -/

/-- A character with its stop bit, on a part that listens with RXD high, is a byte received. -/
theorem feed_cons {s : State} (h : s.listening) (hrx : s.rx = .high) (b : Byte) (bs : List Byte) :
    s.feed (b :: bs) = (s.byteIn b).feed bs := by
  have hc : exec (.characterReceived b true) s = .next (s.byteIn b) := by
    show Host.Outcome.next (s.character b true) = _
    rw [State.character, running_of_run h.1 h.2, if_pos hrx, if_pos rfl]
  refine (show _ = match exec (.characterReceived b true) s with | .next t => t.feed bs | _ => s from rfl).trans ?_
  rw [hc]

/-- The same with a framer in the course of a record. -/
theorem feed_framer {s : State} (h : s.listening) (hrx : s.rx = .high) (f : Framer) (b : Byte) (bs : List Byte) :
    ({ s with framer := f } : State).feed (b :: bs) = (({ s with framer := f } : State).byteIn b).feed bs :=
  feed_cons (s := { s with framer := f }) h hrx b bs

theorem feed_header {s : State} (h : s.listening) (hrx : s.rx = .high) {got xs : List Byte} (rest : List Byte)
    (hlen : got.length + xs.length ≤ 6) :
    ({ s with framer := .header got } : State).feed (xs ++ rest) =
      ({ s with framer := .header (got ++ xs) } : State).feed rest := by
  induction xs generalizing got with
  | nil => simp
  | cons x xs ih =>
    rw [List.length_cons] at hlen
    have hb : ({ s with framer := .header got } : State).byteIn x = { s with framer := .header (got ++ [x]) } :=
      if_pos (Nat.lt_of_lt_of_le (Nat.lt_add_of_pos_right (Nat.succ_pos _)) hlen)
    rw [List.cons_append, feed_framer h hrx, hb, ih (by rwa [List.length_append, List.length_singleton, Nat.add_assoc, Nat.add_comm 1]), List.append_assoc, List.singleton_append]

/-- The body's bytes lead to its check. -/
theorem feed_body {s : State} (h : s.listening) (hrx : s.rx = .high) {head got xs : List Byte} (rest : List Byte)
    (hne : xs ≠ []) :
    ({ s with framer := .body head (got.length + xs.length) got } : State).feed (xs ++ rest) =
      ({ s with framer := .check head (got ++ xs) none } : State).feed rest := by
  induction xs generalizing got with
  | nil => exact absurd rfl hne
  | cons x xs ih =>
    rw [List.cons_append, feed_framer h hrx]
    cases xs with
    | nil => exact congrArg _ (if_neg (by simp))
    | cons y ys =>
      have hb : ({ s with framer := .body head (got.length + (x :: y :: ys).length) got } : State).byteIn x =
          { s with framer := .body head ((got ++ [x]).length + (y :: ys).length) (got ++ [x]) } := by
        refine (if_pos (by simp)).trans ?_
        rw [List.length_append, Nat.add_assoc, List.length_cons, List.length_singleton, Nat.add_comm 1]
      rw [hb, ih (List.cons_ne_nil y ys), List.append_assoc, List.singleton_append]

/-- The two check bytes. -/
theorem feed_check {s : State} (h : s.listening) (hrx : s.rx = .high) (head body : List Byte) (a b : Byte) :
    ({ s with framer := .check head body none } : State).feed [a, b] =
      ({ s with framer := .check head body (some a) } : State).checkDone head body a b := by
  rw [feed_framer h hrx]
  exact feed_framer h hrx (.check head body (some a)) b []

/-- The seven header bytes of a record. -/
noncomputable def LinkRecord.header (r : LinkRecord) : List Byte :=
  [r.kind, r.job, r.flags] ++ beBytes 2 r.tag.toNat ++ beBytes 2 r.body.length

theorem covered_eq (r : LinkRecord) : r.covered = r.header ++ r.body := rfl

theorem header_reads {r : LinkRecord} (h : r.body.length ≤ 1024) :
    field r.header 3 2 = r.tag.toNat ∧ field r.header 5 2 = r.body.length := by
  have hr : Reads r.header 0 [(1, r.kind.toNat), (1, r.job.toNat), (1, r.flags.toNat), (2, r.tag.toNat),
      (2, r.body.length)] :=
    .byte r.kind <| .byte r.job <| .byte r.flags <| .cons r.tag.isLt <| .cons (ys := []) (h.trans_lt (by decide)) <|
      .nil _ _
  exact ⟨hr.2.2.2.1, hr.2.2.2.2.1⟩

theorem recordOf_header {r : LinkRecord} (h : r.body.length ≤ 1024) : recordOf r.header r.body = r := by
  simp only [recordOf, (header_reads h).1, BitVec.ofNat_toNat, BitVec.setWidth_eq]
  rfl

/-- The header leads to the body, or straight to the check where there is none. -/
theorem feed_record_header {s : State} (h : s.listening) (hrx : s.rx = .high) {r : LinkRecord}
    (hlen : r.body.length ≤ 1024) (rest : List Byte) :
    ({ s with framer := .header [] } : State).feed (r.header ++ rest) =
      ({ s with framer := if r.body.length = 0 then .check r.header [] none else .body r.header r.body.length [] } :
        State).feed rest := by
  obtain ⟨six, last, hsix, hhead⟩ : ∃ six last, six.length = 6 ∧ r.header = six ++ [last] :=
    ⟨[r.kind, r.job, r.flags] ++ beBytes 2 r.tag.toNat ++ beBytes 1 (r.body.length / 256), BitVec.ofNat 8 r.body.length,
      by simp, by simp [LinkRecord.header, beBytes]⟩
  have hdone : ({ s with framer := .header six } : State).byteIn last =
      { s with framer := if r.body.length = 0 then .check r.header [] none else .body r.header r.body.length [] } := by
    refine (if_neg fun h => absurd (hsix ▸ h) (Nat.lt_irrefl 6)).trans ?_
    rw [State.headerDone, ← hhead, (header_reads hlen).2]
    exact if_neg (Nat.not_lt.mpr hlen)
  rw [hhead, List.append_assoc, feed_header h hrx _ (by simp [hsix]), List.nil_append, List.singleton_append,
    feed_framer h hrx, hdone, hhead]

/-- The body's bytes, if any, lead to the check. -/
theorem feed_record_body {s : State} (h : s.listening) (hrx : s.rx = .high) (r : LinkRecord) (rest : List Byte) :
    ({ s with framer := if r.body.length = 0 then .check r.header [] none else .body r.header r.body.length [] } :
        State).feed (r.body ++ rest) = ({ s with framer := .check r.header r.body none } : State).feed rest := by
  by_cases hb : r.body = []
  · simp [hb]
  · rw [if_neg (by simpa using hb)]
    simpa using feed_body h hrx (head := r.header) (got := []) rest hb

/-- Settles O12: the marker, the header, the body and the check in their order, each by what the framer holds after it. -/
theorem framerReadsFrame : Obligations.FramerReadsFrame := by
  intro s r hs hrx hhunt hlen
  obtain ⟨a, b, hcheck⟩ : ∃ a b, checkBytes r.covered = [a, b] := ⟨_, _, rfl⟩
  have hmark : s.byteIn 0xA7#8 = { s with framer := .header [] } := by simp [State.byteIn, hhunt]
  have hdone : ({ s with framer := .check r.header r.body (some a) } : State).checkDone r.header r.body a b =
      (s.enqueue r).settle := by
    rw [State.checkDone, ← covered_eq, if_pos hcheck, recordOf_header hlen]
    have hs' : ({ s with framer := .hunt } : State) = s := by rw [← hhunt]
    rw [hs']
  rw [LinkRecord.wire, List.cons_append, feed_cons hs hrx, hmark, hcheck, covered_eq, List.append_assoc, feed_record_header hs hrx hlen,
    feed_record_body hs hrx, feed_check hs hrx, hdone]

end Sys2Proof.Machine
end

section
/-! PROOFS. Requests that are refused: a job field that addresses nothing (R19), a slot state that does not take them
(R21), a body of another length (R196). -/

namespace Sys2Proof.Machine

-- No section variable stands here: the option has Lean elaborate one proof after the other (see the byte facts above).
set_option deprecated.oldSectionVars true

/-! ### The slot a request addresses (R19) -/

/-- The kinds that address the device or a slot by the same field, or the device alone. -/
def mayAddressDevice (k : Kind) : Bool := [Kind.nclr, .nset, .dqry, .drst].contains k

/-- A request to a slot addresses slots 1 to 8. -/
theorem slotOf_of_jobField_bad {k : Kind} (hk : mayAddressDevice k = false) {job : Byte} (h : jobFieldOk k job = false) :
    slotOf job = none := by
  have hrange : (decide (1 ≤ job.toNat) && decide (job.toNat ≤ 8)) = false := by
    cases k
    case nclr | nset | dqry | drst => cases hk
    all_goals exact h
  exact slotOf_eq_none ((Bool.and_eq_false_iff.mp hrange).imp
    (fun h => Nat.eq_zero_of_not_pos (of_decide_eq_false h)) fun h => Nat.lt_of_not_le (of_decide_eq_false h))

theorem ne_zero_of_slotOf {job : Byte} {j : Fin 8} (h : slotOf job = some j) : job ≠ 0#8 := by
  rintro rfl
  cases h

/-- A slot request without a slot is refused with BAD_FIELD. -/
theorem handle_of_no_slot {k : Kind} (hk : mayAddressDevice k = false) {r : Req} (h : slotOf r.job = none) (s : State) :
    handle (requestRecord k.code r) s =
      answer (requestRecord k.code r) ⟨s, .badField, refusalFields k none⟩ := by
  have hw : ∀ f, withSlot (requestRecord k.code r) s f = ⟨s, .badField, []⟩ := fun f => withSlot_of_none h
  cases k
  case nclr | nset | dqry | drst => cases hk
  case adv =>
    rw [handle_adv, doAdv, dataRequest, hw]
    dsimp only
    rw [State.watermarkOf, show slotOf (requestRecord Kind.adv.code r).job = none from h]
    rfl
  case abrt =>
    rw [handle_abrt, takeAbrt, show slotOf (requestRecord Kind.abrt.code r).job = none from h]
    rfl
  case park =>
    rw [handle_park, takePark, show slotOf (requestRecord Kind.park.code r).job = none from h]
    rfl
  all_goals exact congrArg (answer _) (hw _)

/-- Settles O15: a slot request finds no slot; the device's requests test the field themselves. -/
theorem badJobFieldRefused : Obligations.BadJobFieldRefused := by
  intro k r s hready hjob
  apply exec_requestOf_answered hready
  by_cases hk : mayAddressDevice k = false
  · exact handle_of_no_slot hk (slotOf_of_jobField_bad hk hjob) s
  have hnone : 8 < r.job.toNat → ∀ k : Kind, (∀ f g : Result, (if (requestRecord k.code r).job = 0#8 then f else g) = g) ∧
      ∀ f : Fin 8 → Result, withSlot (requestRecord k.code r) s f = refuse .badField s := fun hlarge k =>
    ⟨fun f g => if_neg fun h => absurd hlarge (by rw [show r.job = 0#8 from h]; decide),
      fun f => withSlot_of_none (slotOf_eq_none (.inr hlarge))⟩
  cases k
  case nclr =>
    obtain ⟨hne, hw⟩ := hnone (Nat.lt_of_not_le (of_decide_eq_false hjob)) .nclr
    exact congrArg (answer _) ((hne _ _).trans (hw _))
  case nset =>
    obtain ⟨hne, hw⟩ := hnone (Nat.lt_of_not_le (of_decide_eq_false hjob)) .nset
    exact congrArg (answer _) ((hne _ _).trans (hw _))
  case dqry =>
    have hne : r.job ≠ 0#8 := ne_of_beq_false hjob
    rw [handle_dqry, doDqry_of_job_ne hne]
    rfl
  case drst =>
    have hne : r.job ≠ 0#8 := ne_of_beq_false hjob
    exact if_pos hne
  all_goals exact absurd rfl hk

/-! ### The states a request is taken in (R21) -/

/-- A request taken only in states of a job, in a slot of another state. -/
theorem withJobIn_of_not_taken {ok : JobState → Bool} {l : List Nat} {s : State} {j : Fin 8} {f : Job → Result}
    (hok : ∀ st, ok st = true → l.contains st.code = true) (h : l.contains (s.slot j).code = false) :
    withJobIn ok s j f = refuse .badState s := by
  refine withJobIn_refused fun b hb => Bool.eq_false_iff.mpr fun htrue => ?_
  rw [hb] at h
  exact Bool.false_ne_true (h.symm.trans (hok _ htrue))

/-- A slot in a state listed for a request of job states alone holds a job in such a state. -/
theorem exists_job_of_taken {ok : JobState → Bool} {l : List Nat} {x : Slot}
    (hok : ∀ st : JobState, l.contains st.code = true → ok st = true) (h0 : l.contains 0 = false)
    (h7 : l.contains 7 = false) (h : l.contains x.code = true) : ∃ b, x = .job b ∧ ok b.state = true := by
  cases x with
  | free => exact absurd (h.symm.trans h0) Bool.false_ne_true.symm
  | restoring a => exact absurd (h.symm.trans h7) Bool.false_ne_true.symm
  | job b => exact ⟨b, rfl, hok _ h⟩

/-- A data request where it is neither taken nor latched (R21): `l` holds 3 to 5, and 2 unless the kind waits for the
anchor. -/
theorem dataRequest_of_not_taken {k : Kind} {opened : Status} {wait : List Byte → Fin 8 → Job → State → Result}
    {r : LinkRecord} {s : State} {j : Fin 8} (hj : slotOf r.job = some j)
    (h : [3, 4, 5].contains (s.slot j).code = false)
    (hwait : (s.slot j).code = 2 → ∀ b, wait r.body j b s = refuse opened s) :
    dataRequest k opened wait r s =
      refuse (if (s.slot j).code = 1 ∨ (s.slot j).code = 2 then opened else .badState) s := by
  revert h hwait
  rw [dataRequest, withSlot_of_slot hj]
  cases s.slot j with
  | free => exact fun _ _ => rfl
  | restoring a => exact fun _ _ => rfl
  | job b =>
    show [3, 4, 5].contains b.state.code = false → (b.state.code = 2 → ∀ b, wait r.body j b s = refuse opened s) →
      _ = refuse (if b.state.code = 1 ∨ b.state.code = 2 then opened else .badState) s
    dsimp only
    cases b.state with
    | running => exact fun h => by cases h
    | holding => exact fun h => by cases h
    | held => exact fun h => by cases h
    | anchorWait => exact fun _ hwait => hwait rfl b
    | opened => exact fun _ _ => rfl
    | parking => exact fun _ _ => rfl
    | finishing => exact fun _ _ => rfl
    | done => exact fun _ _ => rfl

theorem slot_code_listed (x : Slot) : [0, 1, 2, 3, 4, 5, 6, 7, 8, 9].contains x.code = true := by
  cases x with
  | job b => rw [Slot.code]; cases b.state <;> rfl
  | _ => rfl

/-! The states of the requests that are taken in states of a job alone (R21). -/

theorem inOpen_eq (st : JobState) : inOpen st = [1].contains st.code := by cases st <;> rfl
theorem inDset_eq (st : JobState) : inDset st = [1, 2, 3, 4, 5].contains st.code := by cases st <;> rfl
theorem inDuck_eq (st : JobState) : inDuck st = [1, 2].contains st.code := by cases st <;> rfl
theorem beq_anchorWait_eq (st : JobState) : (st == .anchorWait) = [2].contains st.code := by cases st <;> rfl
theorem beq_running_eq (st : JobState) : (st == .running) = [3].contains st.code := by cases st <;> rfl
theorem beq_held_eq (st : JobState) : (st == .held) = [5].contains st.code := by cases st <;> rfl
theorem beq_done_eq (st : JobState) : (st == .done) = [9].contains st.code := by cases st <;> rfl

theorem job_code_listed (st : JobState) : [1, 2, 3, 4, 5, 6, 8, 9].contains st.code = true := by cases st <;> rfl

theorem withSlot_withJobIn_of_not_taken {k : Kind} {r : Req} {ok : JobState → Bool} {l : List Nat} {s : State}
    {j : Fin 8} {f : Fin 8 → Job → Result} (hj : slotOf r.job = some j)
    (hok : ∀ st, ok st = l.contains st.code) (h : l.contains (s.slot j).code = false) :
    withSlot (requestRecord k.code r) s (fun j => withJobIn ok s j (f j)) = refuse .badState s :=
  (withSlot_of_slot hj).trans (withJobIn_of_not_taken (fun st hst => hok st ▸ hst) h)

theorem takePark_of_not_held {r : LinkRecord} {s : State} {j : Fin 8} (hj : slotOf r.job = some j)
    (h : [5].contains (s.slot j).code = false) : takePark r s = answer r (refuse .badState s) := by
  rw [takePark, hj]
  dsimp only
  cases hb : s.slot j with
  | free => rfl
  | restoring _ => rfl
  | job b =>
    rw [hb] at h
    exact if_neg (Bool.eq_false_iff.mp ((beq_held_eq b.state).trans h))

theorem takeAbrt_of_free {r : LinkRecord} {s : State} {j : Fin 8} (hj : slotOf r.job = some j) (h : s.slot j = .free) :
    takeAbrt r s = answer r (refuse .badState s) := by
  rw [takeAbrt, hj]
  dsimp only
  rw [h]

theorem doJopn_of_not_free {r : LinkRecord} {s : State} {j : Fin 8} (hj : slotOf r.job = some j)
    (h : s.slot j ≠ .free) : doJopn r s = refuse .badState s := by
  rw [doJopn, withSlot_of_slot hj]
  cases hs : s.slot j with
  | free => exact absurd hs h
  | restoring _ => rfl
  | job _ => rfl

theorem doUnpk_of_job {r : LinkRecord} {s : State} {j : Fin 8} {b : Job} (hj : slotOf r.job = some j)
    (h : s.slot j = .job b) : doUnpk r s = refuse .badState s := by
  rw [doUnpk, withSlot_of_slot hj, h]

theorem doNclr_of_no_job {r : LinkRecord} {s : State} {j : Fin 8} (hj : slotOf r.job = some j)
    (h : ∀ b, s.slot j ≠ .job b) : doNclr r s = refuse .badState s := by
  rw [doNclr, if_neg (ne_zero_of_slotOf hj), withSlot_of_slot hj]
  exact withJobIn_refused fun b hb => absurd hb (h b)

theorem doNset_of_no_job {r : LinkRecord} {s : State} {j : Fin 8} (hj : slotOf r.job = some j)
    (h : ∀ b, s.slot j ≠ .job b) : doNset r s = refuse .badState s := by
  rw [doNset, if_neg (ne_zero_of_slotOf hj), withSlot_of_slot hj]
  exact withJobIn_refused fun b hb => absurd hb (h b)

theorem dataRequest_of_not_listed {k : Kind} {wait : List Byte → Fin 8 → Job → State → Result} {r : LinkRecord}
    {s : State} {j : Fin 8} (hj : slotOf r.job = some j) (h : [2, 3, 4, 5].contains (s.slot j).code = false) :
    dataRequest k .badState wait r s = refuse .badState s := by
  obtain ⟨h2, h345⟩ := Bool.or_eq_false_iff.mp (List.contains_cons.symm.trans h)
  rw [dataRequest_of_not_taken hj h345 fun hc => absurd hc (ne_of_beq_false h2), ite_self]

/-- The kinds handled by one function of the record and the state. -/
theorem handle_of_not_taken {k : Kind} {r : Req} {s : State} {j : Fin 8} (hj : slotOf r.job = some j)
    (hjob : jobFieldOk k r.job = true) (h : (takenStates k).contains (s.slot j).code = false) :
    handle (requestRecord k.code r) s = answer (requestRecord k.code r)
      ⟨s, otherStatus k (s.slot j).code, refusalFields k (s.watermarkOf (requestRecord k.code r))⟩ := by
  have hne := ne_zero_of_slotOf hj
  have hcode : ∀ x, s.slot j = x → (s.slot j).code = x.code := fun x hx => by rw [hx]
  have hno : [1, 2, 3, 4, 5, 6, 8, 9].contains (s.slot j).code = false → ∀ b, s.slot j ≠ .job b := fun h b hb => by
    rw [hcode _ hb, Slot.code, job_code_listed] at h
    cases h
  have hstatus : (if (s.slot j).code == 1 || (s.slot j).code == 2 then Status.noAnchor else .badState) =
      if (s.slot j).code = 1 ∨ (s.slot j).code = 2 then Status.noAnchor else .badState :=
    if_congr (Bool.or_eq_true_iff.trans (or_congr beq_iff_eq beq_iff_eq)) rfl rfl
  cases k
  case dqry | drst => exact absurd (eq_of_beq hjob) hne
  case jqry | gqry => exact absurd ((slot_code_listed _).symm.trans h) (by decide)
  case adv =>
    have hx : dataRequest .adv .noAnchor noAnchor (requestRecord Kind.adv.code r) s = refuse _ s :=
      dataRequest_of_not_taken hj h fun _ _ => rfl
    rw [handle_adv, doAdv, hx]
    exact congrArg (fun st => answer _ ⟨s, st, _⟩) hstatus.symm
  case lvl =>
    exact congrArg (answer _) ((dataRequest_of_not_taken hj h fun _ _ => rfl).trans
      (congrArg (fun st => refuse st s) hstatus.symm))
  case cue | crev | clip | krev => exact congrArg (answer _) (dataRequest_of_not_listed hj h)
  case jopn =>
    refine congrArg (answer _) (doJopn_of_not_free hj fun hf => ?_)
    rw [hcode _ hf] at h
    cases h
  case unpk =>
    cases hs : s.slot j with
    | job b => exact congrArg (answer _) (doUnpk_of_job hj hs)
    | free => rw [hcode _ hs] at h; cases h
    | restoring a => rw [hcode _ hs] at h; cases h
  case abrt =>
    cases hs : s.slot j with
    | free => exact takeAbrt_of_free hj hs
    | restoring a => rw [hcode _ hs] at h; cases h
    | job b =>
      rw [hcode _ hs, Slot.code] at h
      cases hst : b.state <;> rw [hst] at h <;> cases h
  case nclr => exact congrArg (answer _) (doNclr_of_no_job hj (hno h))
  case nset => exact congrArg (answer _) (doNset_of_no_job hj (hno h))
  case park => exact takePark_of_not_held hj h
  case tdef => exact congrArg (answer _) (withSlot_withJobIn_of_not_taken (k := .tdef) hj inOpen_eq h)
  case lset => exact congrArg (answer _) (withSlot_withJobIn_of_not_taken (k := .lset) hj inOpen_eq h)
  case jgo => exact congrArg (answer _) (withSlot_withJobIn_of_not_taken (k := .jgo) hj inOpen_eq h)
  case dset => exact congrArg (answer _) (withSlot_withJobIn_of_not_taken (k := .dset) hj inDset_eq h)
  case duck => exact congrArg (answer _) (withSlot_withJobIn_of_not_taken (k := .duck) hj inDuck_eq h)
  case anch => exact congrArg (answer _) (withSlot_withJobIn_of_not_taken (k := .anch) hj beq_anchorWait_eq h)
  case hold => exact congrArg (answer _) (withSlot_withJobIn_of_not_taken (k := .hold) hj beq_running_eq h)
  case fin => exact congrArg (answer _) (withSlot_withJobIn_of_not_taken (k := .fin) hj beq_running_eq h)
  case rsum => exact congrArg (answer _) (withSlot_withJobIn_of_not_taken (k := .rsum) hj beq_held_eq h)
  case rls => exact congrArg (answer _) (withSlot_withJobIn_of_not_taken (k := .rls) hj beq_done_eq h)

/-! ### A body of another length (R196) -/

theorem left_of_and2 {a b c : Bool} (h : (a && b && c) = true) : a = true :=
  (Bool.and_eq_true_iff.mp (Bool.and_eq_true_iff.mp h).1).1

theorem left_of_and3 {a b c d : Bool} (h : (a && b && c && d) = true) : a = true :=
  left_of_and2 (Bool.and_eq_true_iff.mp h).1

theorem parseTdef_of_length {body : List Byte} (h : body.length ≠ 7) : parseTdef body = none := by simp [parseTdef, h]
theorem parseJopn_of_length {body : List Byte} (h : body.length ≠ 17) : parseJopn body = none :=
  if_neg fun hc => h (of_decide_eq_true (left_of_and2 hc))
theorem parseDset_of_length {body : List Byte} (h : body.length ≠ 17) (x : DetSettings) : parseDset x body = none :=
  if_neg fun hc => h (of_decide_eq_true (left_of_and3 hc))
theorem parseRevoke_of_length {body : List Byte} (h : body.length ≠ 5) : parseRevoke body = none := by
  by_cases hn : field body 0 1 < 16
  · exact (dif_pos hn).trans (if_neg h)
  · exact dif_neg hn
theorem parseGqry_of_length {body : List Byte} (h : body.length ≠ 1) : parseGqry body = none :=
  if_neg fun hc => h (of_decide_eq_true (Bool.and_eq_true_iff.mp hc).1)
theorem parseClip_of_length {body : List Byte} (h : body.length ≠ 22) : parseClip body = none := by simp [parseClip, h]
theorem parseWord_of_length {body : List Byte} (h : body.length ≠ 4) : parseWord body = none := if_neg h
theorem parseLvl_of_length {body : List Byte} (h : body.length ≠ 5 + 3 * field body 4 1) : parseLvl body = none :=
  if_neg fun hc => h (of_decide_eq_true (Bool.and_eq_true_iff.mp hc).2)
theorem parseEmpty_of_length {body : List Byte} (h : body.length ≠ 0) : parseEmpty body = none :=
  if_neg fun hc => h (List.length_eq_zero_iff.mpr (List.isEmpty_iff.mp hc))
theorem parseJgo_of_length {body : List Byte} (h0 : body.length ≠ 0) (h4 : body.length ≠ 4) : parseJgo body = none :=
  (if_neg h0).trans (if_neg h4)

theorem parseLset_of_length {body : List Byte} (h : body.length ≠ 7) : parseLset body = none := by
  unfold parseLset
  dsimp only
  generalize (if (field body 0 1).testBit 1 then Parity.ofCode (field body 5 1) else some LaneSettings.default.parity) = o
  cases o with
  | none => rfl
  | some par => exact if_neg fun hc => h (of_decide_eq_true (left_of_and3 hc))

theorem parseDuck_of_length {body : List Byte} (h : body.length ≠ 30) : parseDuck body = none := by
  by_cases hn : field body 0 1 < 16
  · refine (dif_pos hn).trans ?_
    generalize (if (field body 1 2).testBit 8 then (Policy.ofCode (field body 29 1)).map some else some none) = o
    cases o with
    | none => rfl
    | some pol => exact if_neg fun hc => h (of_decide_eq_true (left_of_and2 hc))
  · exact dif_neg hn

theorem parseCue_of_length {body : List Byte} (h : body.length ≠ 17 + field body 14 2 + field body 16 1) :
    parseCue body = none := by
  by_cases hn : field body 0 1 < 16
  · refine (dif_pos hn).trans ?_
    cases Region.ofCode (field body 13 1) with
    | none => rfl
    | some r => exact if_neg fun hc => h (of_decide_eq_true (Bool.and_eq_true_iff.mp hc).1)
  · exact dif_neg hn

/-- A request taken only in states of a job, in a slot that holds a job in one of them. -/
theorem withSlot_withJobIn_of_taken {k : Kind} {r : Req} {ok : JobState → Bool} {s : State} {j : Fin 8} {b : Job}
    {f : Fin 8 → Job → Result} (hj : slotOf r.job = some j) (hb : s.slot j = .job b) (hok : ok b.state = true) :
    withSlot (requestRecord k.code r) s (fun j => withJobIn ok s j (f j)) = f j b :=
  (withSlot_of_slot hj).trans (withJobIn_taken hb hok)

/-- A data request at a RUNNING job, or at one that waits for its anchor. -/
theorem dataRequest_of_running {k : Kind} {opened : Status} {wait : List Byte → Fin 8 → Job → State → Result}
    {r : LinkRecord} {s : State} {j : Fin 8} {b : Job} (hj : slotOf r.job = some j) (hb : s.slot j = .job b)
    (hst : b.state = .running) : dataRequest k opened wait r s = runData k r.body j b s := by
  rw [dataRequest, withSlot_of_slot hj, hb]
  simp only [hst]

theorem dataRequest_of_anchorWait {k : Kind} {opened : Status} {wait : List Byte → Fin 8 → Job → State → Result}
    {r : LinkRecord} {s : State} {j : Fin 8} {b : Job} (hj : slotOf r.job = some j) (hb : s.slot j = .job b)
    (hst : b.state = .anchorWait) : dataRequest k opened wait r s = wait r.body j b s := by
  rw [dataRequest, withSlot_of_slot hj, hb]
  simp only [hst]

/-- A refusal leads to no test of the Segmenter. -/
theorem thenPump_refuse {s : State} {j : Fin 8} {b : Job} (hb : s.slot j = .job b) (st : Status) :
    thenPump j b (refuse st s) = refuse st s := by
  refine if_neg fun hm => ?_
  rw [show (refuse st s).s.job? j = some b from job?_of_slot s j hb] at hm
  exact ((settledMoves_iff b b).mp hm).elim fun _ h => h rfl

/-- Settles O16: each kind's own test of the state, against the table of R21. -/
theorem wrongStateRefused : Obligations.WrongStateRefused :=
  fun _ _ _ _ hready hj hjob h => exec_requestOf_answered hready (handle_of_not_taken hj hjob h)

/-- A data request taken by a RUNNING or an ANCHOR_WAIT job is refused where both refuse its body. -/
theorem dataRequest_of_bad_body {k : Kind} {opened : Status} {wait : List Byte → Fin 8 → Job → State → Result}
    {r : LinkRecord} {s : State} {j : Fin 8} (hj : slotOf r.job = some j) {b : Job} (hb : s.slot j = .job b)
    (hst : b.state = .running ∨ b.state = .anchorWait)
    (hrun : b.state = .running → runData k r.body j b s = refuse .badField s)
    (hwait : b.state = .anchorWait → wait r.body j b s = refuse .badField s) :
    dataRequest k opened wait r s = refuse .badField s := by
  rcases hst with hst | hst
  · rw [dataRequest_of_running hj hb hst, hrun hst]
  · rw [dataRequest_of_anchorWait hj hb hst, hwait hst]

theorem runCue_of_bad_body {body : List Byte} (h : parseCue body = none) (j : Fin 8) (b : Job) (s : State) :
    runCue body j b s = refuse .badField s ∧ waitCue body j b s = refuse .badField s := by
  rw [runCue, waitCue, h]
  exact ⟨rfl, rfl⟩

theorem runCrev_of_bad_body {body : List Byte} (h : parseRevoke body = none) (j : Fin 8) (b : Job) (s : State) :
    runCrev body j b s = refuse .badField s ∧ waitCrev body j b s = refuse .badField s := by
  rw [runCrev, waitCrev, h]
  exact ⟨rfl, rfl⟩

theorem runClip_of_bad_body {body : List Byte} (h : parseClip body = none) (j : Fin 8) (b : Job) (s : State) :
    runClip body j b s = refuse .badField s ∧ waitClip body j b s = refuse .badField s := by
  rw [runClip, waitClip, h]
  exact ⟨rfl, rfl⟩

theorem runKrev_of_bad_body {body : List Byte} (h : parseRevoke body = none) (j : Fin 8) (b : Job) (s : State) :
    runKrev body j b s = refuse .badField s ∧ waitKrev body j b s = refuse .badField s := by
  rw [runKrev, waitKrev, h]
  exact ⟨rfl, rfl⟩

/-- The states a data request is taken in without being latched. -/
theorem running_or_anchorWait_of_code {k : Kind} {x : Slot} (h : (takenStates k).contains x.code = true)
    (hk : takenStates k = [2, 3, 4, 5] ∨ takenStates k = [3, 4, 5]) (h23 : x.code = 2 ∨ x.code = 3) :
    ∃ b, x = .job b ∧ (b.state = .running ∨ b.state = .anchorWait ∧ takenStates k = [2, 3, 4, 5]) := by
  have hno : ∀ n : Nat, n ≠ 2 → n ≠ 3 → ¬(n = 2 ∨ n = 3) := fun n h2 h3 => not_or.mpr ⟨h2, h3⟩
  cases x with
  | free => exact absurd h23 (hno 0 (by decide) (by decide))
  | restoring a => exact absurd h23 (hno 7 (by decide) (by decide))
  | job b =>
    refine ⟨b, rfl, ?_⟩
    revert h h23
    dsimp only [Slot.code]
    cases b.state with
    | running => exact fun _ _ => .inl rfl
    | anchorWait => exact fun h _ => .inr ⟨rfl, hk.elim id fun hk => by rw [hk] at h; cases h⟩
    | opened => exact fun _ h => absurd h (hno 1 (by decide) (by decide))
    | holding => exact fun _ h => absurd h (hno 4 (by decide) (by decide))
    | held => exact fun _ h => absurd h (hno 5 (by decide) (by decide))
    | parking => exact fun _ h => absurd h (hno 6 (by decide) (by decide))
    | finishing => exact fun _ h => absurd h (hno 8 (by decide) (by decide))
    | done => exact fun _ h => absurd h (hno 9 (by decide) (by decide))

/-- The kinds that address the device. -/
theorem kind_of_device {k : Kind} (h : jobFieldOk k 0#8 = true) : k = .dqry ∨ k = .drst ∨ k = .nclr ∨ k = .nset := by
  revert h
  cases k
  case dqry => exact fun _ => .inl rfl
  case drst => exact fun _ => .inr (.inl rfl)
  case nclr => exact fun _ => .inr (.inr (.inl rfl))
  case nset => exact fun _ => .inr (.inr (.inr rfl))
  all_goals exact fun h => absurd h Bool.false_ne_true

theorem parseEmpty_request {r : Req} (h : (r.body.length == 0) = false) {k : Kind} :
    parseEmpty (requestRecord k.code r).body = none := parseEmpty_of_length (ne_of_beq_false h)

theorem parseWord_request {r : Req} (h : (r.body.length == 4) = false) {k : Kind} :
    parseWord (requestRecord k.code r).body = none := parseWord_of_length (ne_of_beq_false h)

/-- A device request whose body has not the length of its layout. -/
theorem handle_device_of_wrong_length {k : Kind} {r : Req} (hjob : r.job = 0#8) (hk : jobFieldOk k r.job = true)
    (hlen : lengthOk k r.body = false) (s : State) :
    handle (requestRecord k.code r) s = answer (requestRecord k.code r) (refuse .badField s) := by
  rw [hjob] at hk
  obtain rfl | rfl | rfl | rfl := kind_of_device hk
  · refine congrArg (answer _) ((if_neg (not_not.mpr hjob)).trans ?_)
    rw [parseEmpty_request hlen]
  · refine (if_neg (not_not.mpr hjob)).trans ?_
    rw [parseEmpty_request hlen]
  · refine congrArg (answer _) ((if_pos hjob).trans ?_)
    rw [nclrDevice, parseWord_request hlen]
  · refine congrArg (answer _) ((if_pos hjob).trans ?_)
    rw [nsetDevice, parseWord_request hlen]

/-- A slot request, in a state that takes it, whose body has not the length of its layout. -/
theorem handle_slot_of_wrong_length {k : Kind} {r : Req} {s : State} {j : Fin 8} (hj : slotOf r.job = some j)
    (htaken : (takenStates k).contains (s.slot j).code = true) (hlen : lengthOk k r.body = false)
    (hdata : isData k = true → (s.slot j).code = 2 ∨ (s.slot j).code = 3) :
    handle (requestRecord k.code r) s = answer (requestRecord k.code r)
      ⟨s, .badField, refusalFields k (s.watermarkOf (requestRecord k.code r))⟩ := by
  have hrevoke : (r.body.length == 5) = false → parseRevoke r.body = none := fun h =>
    parseRevoke_of_length (ne_of_beq_false h)
  have hjob : ∀ {k : Kind} {ok : JobState → Bool} {l : List Nat} {f : Fin 8 → Job → Result},
      (∀ st, ok st = l.contains st.code) → l.contains 0 = false → l.contains 7 = false →
      l.contains (s.slot j).code = true → (∀ b, f j b = refuse .badField s) →
      withSlot (requestRecord k.code r) s (fun j => withJobIn ok s j (f j)) = refuse .badField s :=
    fun hok h0 h7 h hf => (exists_job_of_taken (fun st hst => (hok st).trans hst) h0 h7 h).elim
      fun b hb => (withSlot_withJobIn_of_taken hj hb.1 hb.2).trans (hf b)
  cases k
  case dqry | drst => cases htaken
  case unpk => cases hlen
  case jopn =>
    have hfree : s.slot j = .free := by
      revert htaken
      cases s.slot j with
      | free => exact fun _ => rfl
      | restoring a => exact fun h => by cases h
      | job b =>
        dsimp only [Slot.code]
        cases b.state <;> exact fun h => by cases h
    refine congrArg (answer _) ((withSlot_of_slot hj).trans ?_)
    rw [hfree]
    dsimp only
    rw [show parseJopn (requestRecord Kind.jopn.code r).body = none from parseJopn_of_length (ne_of_beq_false hlen)]
    rfl
  case tdef =>
    refine congrArg (answer _) (hjob (k := .tdef) inOpen_eq rfl rfl htaken fun b => ?_)
    rw [show parseTdef (requestRecord Kind.tdef.code r).body = none from parseTdef_of_length (ne_of_beq_false hlen)]
  case lset =>
    refine congrArg (answer _) (hjob (k := .lset) inOpen_eq rfl rfl htaken fun b => ?_)
    rw [show parseLset (requestRecord Kind.lset.code r).body = none from parseLset_of_length (ne_of_beq_false hlen)]
  case dset =>
    refine congrArg (answer _) (hjob (k := .dset) inDset_eq rfl rfl htaken fun b => ?_)
    rw [show parseDset b.det (requestRecord Kind.dset.code r).body = none from
      parseDset_of_length (ne_of_beq_false hlen) _]
  case duck =>
    refine congrArg (answer _) (hjob (k := .duck) inDuck_eq rfl rfl htaken fun b => ?_)
    rw [show parseDuck (requestRecord Kind.duck.code r).body = none from parseDuck_of_length (ne_of_beq_false hlen)]
  case jgo =>
    obtain ⟨h0, h4⟩ := Bool.or_eq_false_iff.mp hlen
    refine congrArg (answer _) (hjob (k := .jgo) inOpen_eq rfl rfl htaken fun b => ?_)
    rw [show parseJgo (requestRecord Kind.jgo.code r).body = none from
      parseJgo_of_length (ne_of_beq_false h0) (ne_of_beq_false h4)]
  case anch =>
    refine congrArg (answer _) (hjob (k := .anch) beq_anchorWait_eq rfl rfl htaken fun b => ?_)
    rw [parseWord_request hlen]
  case hold =>
    refine congrArg (answer _) (hjob (k := .hold) beq_running_eq rfl rfl htaken fun b => ?_)
    rw [parseEmpty_request hlen]
  case rsum =>
    refine congrArg (answer _) (hjob (k := .rsum) beq_held_eq rfl rfl htaken fun b => ?_)
    rw [parseEmpty_request hlen]
  case fin =>
    refine congrArg (answer _) (hjob (k := .fin) beq_running_eq rfl rfl htaken fun b => ?_)
    rw [parseWord_request hlen]
  case rls =>
    refine congrArg (answer _) (hjob (k := .rls) beq_done_eq rfl rfl htaken fun b => ?_)
    rw [parseEmpty_request hlen]
  case abrt =>
    rw [handle_abrt, takeAbrt, show slotOf (requestRecord Kind.abrt.code r).job = some j from hj]
    dsimp only
    cases hs : s.slot j with
    | free => rw [hs] at htaken; cases htaken
    | restoring a =>
      dsimp only
      rw [parseEmpty_request hlen]
      rfl
    | job b =>
      dsimp only
      rw [parseEmpty_request hlen]
      rfl
  case park =>
    obtain ⟨b, hb, hok⟩ := exists_job_of_taken (fun st hst => (beq_held_eq st).trans hst) rfl rfl htaken
    rw [handle_park, takePark, show slotOf (requestRecord Kind.park.code r).job = some j from hj]
    dsimp only
    rw [hb]
    refine (if_pos hok).trans ?_
    rw [parseEmpty_request hlen]
    rfl
  case jqry =>
    refine congrArg (answer _) ((withSlot_of_slot hj).trans ?_)
    rw [parseEmpty_request hlen]
    rfl
  case gqry =>
    refine congrArg (answer _) ((withSlot_of_slot hj).trans ?_)
    rw [show parseGqry (requestRecord Kind.gqry.code r).body = none from parseGqry_of_length (ne_of_beq_false hlen)]
    rfl
  case nclr =>
    refine congrArg (answer _) ((if_neg (ne_zero_of_slotOf hj)).trans (hjob (k := .nclr) (ok := fun _ => true)
      (fun st => (job_code_listed st).symm) rfl rfl htaken fun b => ?_))
    rw [nclrJob, parseWord_request hlen]
  case nset =>
    refine congrArg (answer _) ((if_neg (ne_zero_of_slotOf hj)).trans (hjob (k := .nset) (ok := fun _ => true)
      (fun st => (job_code_listed st).symm) rfl rfl htaken fun b => ?_))
    rw [nsetJob, parseWord_request hlen]
  case cue =>
    obtain ⟨b, hb, hst⟩ := running_or_anchorWait_of_code htaken (.inl rfl) (hdata rfl)
    obtain ⟨hrun, hwait⟩ := runCue_of_bad_body (parseCue_of_length (ne_of_beq_false hlen)) j b s
    exact congrArg (answer _) (dataRequest_of_bad_body hj hb (hst.imp_right And.left) (fun _ => hrun) fun _ => hwait)
  case crev =>
    obtain ⟨b, hb, hst⟩ := running_or_anchorWait_of_code htaken (.inl rfl) (hdata rfl)
    obtain ⟨hrun, hwait⟩ := runCrev_of_bad_body (hrevoke hlen) j b s
    exact congrArg (answer _) (dataRequest_of_bad_body hj hb (hst.imp_right And.left) (fun _ => hrun) fun _ => hwait)
  case clip =>
    obtain ⟨b, hb, hst⟩ := running_or_anchorWait_of_code htaken (.inl rfl) (hdata rfl)
    obtain ⟨hrun, hwait⟩ := runClip_of_bad_body (parseClip_of_length (ne_of_beq_false hlen)) j b s
    exact congrArg (answer _) (dataRequest_of_bad_body hj hb (hst.imp_right And.left)
      (fun _ => (congrArg _ hrun).trans (thenPump_refuse hb _)) fun _ => hwait)
  case krev =>
    obtain ⟨b, hb, hst⟩ := running_or_anchorWait_of_code htaken (.inl rfl) (hdata rfl)
    obtain ⟨hrun, hwait⟩ := runKrev_of_bad_body (hrevoke hlen) j b s
    exact congrArg (answer _) (dataRequest_of_bad_body hj hb (hst.imp_right And.left)
      (fun _ => (congrArg _ hrun).trans (thenPump_refuse hb _)) fun _ => hwait)
  case lvl =>
    obtain ⟨b, hb, hst | ⟨-, hw⟩⟩ := running_or_anchorWait_of_code htaken (.inr rfl) (hdata rfl)
    · have hp : parseLvl r.body = none := parseLvl_of_length (ne_of_beq_false hlen)
      have hrun : runLvl r.body j b s = refuse .badField s := by rw [runLvl, hp]
      refine congrArg (answer _) ((dataRequest_of_running hj hb hst).trans ?_)
      exact (congrArg _ hrun).trans (thenPump_refuse hb _)
    · cases hw
  case adv =>
    obtain ⟨b, hb, hst | ⟨-, hw⟩⟩ := running_or_anchorWait_of_code htaken (.inr rfl) (hdata rfl)
    · have hrun : runAdv r.body j b s = refuse .badField s := by
        rw [runAdv, parseWord_of_length (ne_of_beq_false hlen)]
      have hx : dataRequest .adv .noAnchor noAnchor (requestRecord Kind.adv.code r) s = refuse .badField s :=
        (dataRequest_of_running hj hb hst).trans hrun
      rw [handle_adv, doAdv, hx]
      rfl
    · cases hw

/-- Settles O17: each layout's reader refuses a body of another length, and each kind tests its body in every state that
takes it. -/
theorem wrongLengthRefused : Obligations.WrongLengthRefused := by
  intro k r s hready hlen hcase
  apply exec_requestOf_answered hready
  rcases hcase with ⟨j, hj, htaken, hdata⟩ | ⟨hjob, hk⟩
  · exact handle_slot_of_wrong_length hj htaken hlen hdata
  · have hfields : refusalFields k (s.watermarkOf (requestRecord k.code r)) = [] := by
      refine if_neg ?_
      rintro rfl
      rw [hjob] at hk
      cases hk
    rw [handle_device_of_wrong_length hjob hk hlen, hfields, refuse]

end Sys2Proof.Machine
end

section
/-! PROOFS. The requests that open and describe a job (R22, R42, R82, R109, R133). -/

namespace Sys2Proof.Machine

-- No section variable stands here: the option has Lean elaborate one proof after the other (see the byte facts above).
set_option deprecated.oldSectionVars true

/-! ### JOPN (R22) -/

theorem JopnFields.valid_of_parse {body : List Byte} {f : JopnFields} (h : parseJopn body = some f) : f.valid = true := by
  obtain ⟨⟨-, -, hv⟩, rfl⟩ := parseJopn_iff.mp h
  exact hv

section
variable {s : State} {r : Req} {j : Fin 8}

theorem exec_jopn_none (hready : s.ready = true) (hj : slotOf r.job = some j) (hfree : s.slot j = .free)
    (h : parseJopn r.body = none) : exec (.jopn r) s = s.answered .jopn r .badField [] := by
  refine exec_requestOf_answered (k := .jopn) hready (congrArg (answer _) ((withSlot_of_slot hj).trans ?_))
  rw [hfree]
  dsimp only
  rw [show parseJopn (requestRecord Kind.jopn.code r).body = none from h]
  rfl

theorem exec_jopn_some (hready : s.ready = true) (hj : slotOf r.job = some j) (hfree : s.slot j = .free) {f : JopnFields}
    (h : parseJopn r.body = some f) : exec (.jopn r) s = (s.setJob j (openedJob f)).answered .jopn r
      (if f.spanClamped then .clamped else .ok) (beBytes 4 (openedJob f).tb.span) := by
  refine exec_requestOf_answered (k := .jopn) hready (congrArg (answer _) ((withSlot_of_slot hj).trans ?_))
  rw [hfree]
  dsimp only
  rw [show parseJopn (requestRecord Kind.jopn.code r).body = some f from h]

end

theorem spanClamped_eq (f : JopnFields) : f.spanClamped = f.span.any (86400 * f.num / f.den < ·) := by
  unfold JopnFields.spanClamped
  cases f.span <;> rfl

theorem present_ne_zero {p i v : Nat} : present p i v ≠ some 0 ↔ (p.testBit i = true → v ≠ 0) := by
  unfold present
  cases p.testBit i with
  | true => exact ⟨fun h _ hv => h (congrArg some hv), fun h hv => h rfl (Option.some.inj hv)⟩
  | false => exact iff_of_true (fun h => by cases h) fun h => by cases h

/-- Settles O19: the reader's ranges are those of R22, and the record is `openedJob`. -/
theorem jopnOpensJob : Obligations.JopnOpensJob := by
  intro s r j hready hj hfree
  refine ⟨⟨fun hvalid => exec_jopn_none hready hj hfree ?_, fun h => ?_⟩, exec_jopn_none hready hj hfree, fun f hf => ?_⟩
  · refine Option.eq_none_iff_forall_ne_some.mpr fun f hf => hvalid ?_
    obtain ⟨⟨hlen, hp, hv⟩, -⟩ := parseJopn_iff.mp hf
    obtain ⟨hrate, ⟨h6, h7⟩, hcues, hclips, hspan⟩ := JopnFields.valid_iff.mp hv
    obtain ⟨⟨h1, h2⟩, h3, h4, h5⟩ := rateOk_iff.mp hrate
    exact ⟨hlen, hp, h1, h2, h3, h4, h5, h6, h7, optWithin_present.mp hcues, optWithin_present.mp hclips,
      present_ne_zero.mp hspan⟩
  · obtain ⟨hlen, hp, h1, h2, h3, h4, h5, h6, h7, hcues, hclips, hspan⟩ := h
    exact parseJopn_iff.mpr ⟨⟨hlen, hp, JopnFields.valid_iff.mpr ⟨rateOk_iff.mpr ⟨⟨h1, h2⟩, h3, h4, h5⟩, ⟨h6, h7⟩,
      optWithin_present.mpr hcues, optWithin_present.mpr hclips, present_ne_zero.mpr hspan⟩⟩, rfl⟩
  · obtain ⟨hrate, ⟨hseg, hseg'⟩, -⟩ := JopnFields.valid_iff.mp (JopnFields.valid_of_parse hf)
    refine ⟨openedJob f, ?_, rfl, rfl, rfl, rfl, rfl, fun i => ?_, rfl, rfl, rfl, rfl, rfl, rfl, rfl, rfl, rfl, rfl, hrate,
      hseg, hseg'⟩
    · rw [← spanClamped_eq]
      exact exec_jopn_some hready hj hfree hf
    · exact Vector.getElem_replicate i.isLt

end Sys2Proof.Machine
end

section
/-! PROOFS. The requests that describe, start and hold a job (R24, R29, R42, R82, R109, R133). -/

namespace Sys2Proof.Machine

-- No section variable stands here: the option has Lean elaborate one proof after the other (see the byte facts above).
set_option deprecated.oldSectionVars true

/-! ### Requests taken in states of a job alone -/

/-- The answer of a request that is taken: what its meaning makes of the job. -/
theorem exec_of_taken {k : Kind} {ok : JobState → Bool} {f : Fin 8 → Job → Result} {s u : State} {r : Req} {j : Fin 8}
    {b : Job} {st : Status} {fs : List Byte}
    (hhandle : handle (requestRecord k.code r) s = answer (requestRecord k.code r)
      (withSlot (requestRecord k.code r) s fun j => withJobIn ok s j (f j)))
    (h : s.asked r j b) (hok : ok b.state = true) (hf : f j b = ⟨u, st, fs⟩) :
    exec (requestOf k r) s = u.answered k r st fs := by
  obtain ⟨hready, hj, hb⟩ := h
  apply exec_requestOf_answered hready
  rw [hhandle, withSlot_withJobIn_of_taken hj hb hok, hf]

/-! ### The track table -/

theorem setTrack_tracks (b : Job) (i : Fin 16) (x : Track) : { b.setTrack i x with tracks := b.tracks } = b := rfl

/-- The DESC tracks but one, counted in the track table. -/
theorem length_filter_descTracks (b : Job) (i : Fin 16) :
    (b.descTracks.filter fun p => p.1 != i).length =
      ((trackNumbers.filter fun k => k != i).filter fun k => (b.desc? k).isSome).length := by
  rw [Job.descTracks, List.filter_filterMap, List.length_filterMap_eq_countP, List.filter_filter,
    ← List.countP_eq_length_filter]
  congr 1
  funext k
  cases b.desc? k <;> simp [Option.filter]
  split <;> simp_all

/-- A test of the TEXT tracks but one. -/
theorem any_textTracks_ne (b : Job) (i : Fin 16) (p : TextTrack → Bool) :
    (b.textTracks.any fun x => x.1 != i && p x.2) =
      (trackNumbers.filter fun k => k != i).any fun k => match b.text? k with | some t => p t | none => false := by
  rw [Job.textTracks, List.any_filterMap, List.any_filter]
  congr 1
  funext k
  cases b.text? k <;> simp

/-! ### TDEF (R42) -/

theorem isLower_iff {x : Byte} : isLower x = true ↔ 0x61 ≤ x.toNat ∧ x.toNat ≤ 0x7A := within_iff

/-- The body of TDEF, byte by byte. -/
theorem parseTdef_bytes (n k l1 l2 l3 o v : Byte) :
    parseTdef [n, k, l1, l2, l3, o, v] =
      if h : n.toNat < 16 then
        if k.toNat ≤ 1 ∧ o.toNat ≤ 1 ∧
            (⟨⟨n.toNat, h⟩, k.toNat == 1, [l1, l2, l3], o.toNat == 1, v.toNat⟩ : TdefFields).valid = true then
          some ⟨⟨n.toNat, h⟩, k.toNat == 1, [l1, l2, l3], o.toNat == 1, v.toNat⟩
        else none
      else none := by
  have hr : Reads [n, k, l1, l2, l3, o, v] 0 [(1, n.toNat), (1, k.toNat), (1, l1.toNat), (1, l2.toNat), (1, l3.toNat),
      (1, o.toNat), (1, v.toNat)] :=
    .byte n <| .byte k <| .byte l1 <| .byte l2 <| .byte l3 <| .byte o <| .byte v <| .nil _ _
  dsimp only [Reads, Nat.reduceAdd] at hr
  simp [parseTdef, hr, and_assoc]

theorem beq_one_iff {k : Byte} : (k.toNat == 1) = (k == 1#8) := by
  rw [Bool.eq_iff_iff, beq_iff_eq, beq_iff_eq, ← BitVec.toNat_inj]
  rfl

theorem tdefConflict_eq (f : TdefFields) (b : Job) : b.tdefConflict f = true ↔
    (f.desc = true ∧ 4 ≤ ((trackNumbers.filter fun i => i != f.track).filter fun i => (b.desc? i).isSome).length) ∨
    (f.desc = false ∧ f.service ≠ 0 ∧ ((trackNumbers.filter fun i => i != f.track).any fun i =>
      match b.text? i with | some t => t.service == f.service | none => false) = true) := by
  unfold Job.tdefConflict
  rw [length_filter_descTracks, any_textTracks_ne b f.track fun t => t.service == f.service]
  cases f.desc <;> simp

theorem valid_tdef_iff {n : Fin 16} {k l1 l2 l3 o v : Byte} (hk : k.toNat ≤ 1) :
    (⟨n, k.toNat == 1, [l1, l2, l3], o.toNat == 1, v.toNat⟩ : TdefFields).valid = true ↔
      isLower l1 = true ∧ isLower l2 = true ∧ isLower l3 = true ∧ v.toNat ≤ 4 ∧ (k = 1#8 → v = 0#8) ∧
        (k = 0#8 → o = 1#8 ∨ v ≠ 0#8) := by
  have hv : v = 0#8 ↔ v.toNat = 0 := by rw [← BitVec.toNat_inj]; rfl
  have hk1 : k = 1#8 ↔ k.toNat = 1 := by rw [← BitVec.toNat_inj]; rfl
  have hk0 : k = 0#8 ↔ k.toNat = 0 := by rw [← BitVec.toNat_inj]; rfl
  have ho1 : o = 1#8 ↔ o.toNat = 1 := by rw [← BitVec.toNat_inj]; rfl
  simp only [TdefFields.valid, trackOk, hv, hk1, hk0, ho1, ne_eq]
  by_cases h : k.toNat = 1
  · simp [h, and_assoc]
  · have h0 : k.toNat = 0 := Nat.lt_one_iff.mp (Nat.lt_of_le_of_ne hk h)
    simp [h0, and_assoc]

/-- Settles O20: the body byte by byte, then the conflicts in the track table. -/
theorem tdefDefinesTrack : Obligations.TdefDefinesTrack := by
  refine ⟨fun s r j b n k l1 l2 l3 o v hask hst hbody => ?_, fun s r j b f hask hst hf => ?_⟩
  · have hparse := parseTdef_bytes n k l1 l2 l3 o v
    constructor
    · intro hbad
      refine exec_of_taken (k := .tdef) (handle_tdef r s) hask (ok := inOpen) (by rw [hst]; rfl) ?_
      have hnone : parseTdef r.body = none := by
        rw [hbody, hparse]
        by_cases hn : n.toNat < 16
        · rw [dif_pos hn, if_neg]
          rintro ⟨hk, ho, hvalid⟩
          obtain ⟨h1, h2, h3, hrest⟩ := (valid_tdef_iff hk).mp hvalid
          exact hbad ⟨Nat.le_of_lt_succ hn, hk, isLower_iff.mp h1, isLower_iff.mp h2, isLower_iff.mp h3, ho, hrest⟩
        · rw [dif_neg hn]
      simp only [requestRecord_body, hnone, refuse]
    · rintro ⟨hn, hk, h1, h2, h3, ho, hv, hdesc, htext⟩
      have hn' : n.toNat < 16 := Nat.lt_succ_of_le hn
      refine ⟨⟨⟨n.toNat, hn'⟩, k.toNat == 1, [l1, l2, l3], o.toNat == 1, v.toNat⟩, ?_, rfl, beq_one_iff, rfl, beq_one_iff,
        rfl⟩
      rw [hbody, hparse, dif_pos hn', if_pos ⟨hk, ho, (valid_tdef_iff hk).mpr ⟨isLower_iff.mpr h1, isLower_iff.mpr h2,
        isLower_iff.mpr h3, hv, hdesc, htext⟩⟩]
  · intro others descs taken track
    have hiff : b.tdefConflict f = true ↔ (f.desc = true ∧ 4 ≤ descs) ∨ (f.desc = false ∧ f.service ≠ 0 ∧ taken = true) :=
      tdefConflict_eq f b
    by_cases hconflict : b.tdefConflict f = true
    · rw [if_pos (hiff.mp hconflict)]
      refine exec_of_taken (k := .tdef) (handle_tdef r s) hask (ok := inOpen) (by rw [hst]; rfl) ?_
      simp only [requestRecord_body, hf, if_pos hconflict, refuse]
    · rw [if_neg fun h => hconflict (hiff.mpr h)]
      refine ⟨b.setTrack f.track f.toTrack, track_setTrack_self _ _ _, fun i hi => track_setTrack_ne b _ hi,
        setTrack_tracks _ _ _, ?_⟩
      refine exec_of_taken (k := .tdef) (handle_tdef r s) hask (ok := inOpen) (by rw [hst]; rfl) ?_
      simp only [requestRecord_body, hf, if_neg hconflict, Job.trackCount, descTracks_length]

/-! ### LSET (R82) -/

/-- The parity a byte names where it is present, ODD otherwise. -/
theorem ofCode_parity {par : Byte} (h : par.toNat ≤ 2) :
    Parity.ofCode par.toNat = some (if par = 0#8 then Parity.odd else if par = 1#8 then .even else .none) := by
  have h0 : par = 0#8 ↔ par.toNat = 0 := by rw [← BitVec.toNat_inj]; rfl
  have h1 : par = 1#8 ↔ par.toNat = 1 := by rw [← BitVec.toNat_inj]; rfl
  simp only [h0, h1]
  generalize par.toNat = n at h
  obtain _ | _ | _ | n := n
  · rfl
  · rfl
  · rfl
  · exact absurd h (Nat.not_le.mpr (Nat.le_add_left 3 n))

theorem ofCode_parity_none {n : Nat} (h : 2 < n) : Parity.ofCode n = none := by
  obtain ⟨k, rfl⟩ := Nat.exists_eq_add_of_le' h
  rfl

section
variable {s : State} {r : Req} {j : Fin 8} {b : Job}

theorem exec_lset_none (hask : s.asked r j b) (hst : b.state = .opened) (h : parseLset r.body = none) :
    exec (.lset r) s = s.answered .lset r .badField [] := by
  refine exec_of_taken (k := .lset) (handle_lset r s) hask (ok := inOpen) (hst ▸ rfl) ?_
  rw [show parseLset (requestRecord Kind.lset.code r).body = none from h]
  rfl

theorem exec_lset_some (hask : s.asked r j b) (hst : b.state = .opened) {x : LaneSettings} (h : parseLset r.body = some x) :
    exec (.lset r) s = (s.setJob j { b with laneSet := x }).answered .lset r .ok [] := by
  refine exec_of_taken (k := .lset) (handle_lset r s) hask (ok := inOpen) (hst ▸ rfl) ?_
  rw [show parseLset (requestRecord Kind.lset.code r).body = some x from h]

end

theorem byte_eq_iff {a : Byte} {n : Nat} (hn : n < 256) : a = BitVec.ofNat 8 n ↔ a.toNat = n :=
  BitVec.toNat_inj.symm.trans (by rw [BitVec.toNat_ofNat, Nat.mod_eq_of_lt hn])

/-- Settles O21: the body byte by byte against the ranges of R81. -/
theorem lsetReplacesSettings : Obligations.LsetReplacesSettings := by
  intro s r j b p e q l1 l0 par sub hask hst hbody lookahead parity subst
  have hr : Reads r.body 0 [(1, p.toNat), (1, e.toNat), (1, q.toNat), (2, l1.toNat * 256 + l0.toNat), (1, par.toNat),
      (1, sub.toNat)] :=
    hbody ▸ (.byte p <| .byte e <| .byte q <| .pair l1 l0 <| .byte par <| .byte sub <| .nil _ _)
  have hlen : r.body.length = 7 := hbody ▸ rfl
  obtain ⟨e0, e1, e2, e3, e5, e6, -⟩ := hr
  dsimp only [Nat.reduceAdd] at e1 e2 e3 e5 e6
  have hbit : ∀ i, (field r.body 0 1).testBit i = p.getLsbD i := fun i => (congrArg (·.testBit i) e0).trans (BitVec.testBit_toNat p)
  by_cases hle : p.getLsbD 1 = true → par.toNat ≤ 2
  · have hpar : (if (field r.body 0 1).testBit 1 then Parity.ofCode (field r.body 5 1)
        else some LaneSettings.default.parity) = some parity := by
      rw [hbit, e5]
      cases hp : p.getLsbD 1 with
      | true => exact (ofCode_parity (hle hp)).trans (congrArg some (if_pos hp).symm)
      | false => exact congrArg some (if_neg (Bool.eq_false_iff.mp hp)).symm
    have hread : readLset r.body parity = ⟨e = 1#8, q.toNat, lookahead, parity, subst⟩ := by
      rw [readLset, e1, e2, beq_one_iff, getD_present_byte e0 e3, getD_present_byte e0 e6]
      rfl
    have hcond : (decide (r.body.length = 7) && decide (field r.body 0 1 < 8) && decide (field r.body 1 1 ≤ 1) &&
        (readLset r.body parity).valid) = true ↔ p.toNat < 8 ∧ e.toNat ≤ 1 ∧ (q = 2#8 ∨ q = 4#8) ∧ 8 ≤ lookahead ∧
        lookahead ≤ 600 ∧ (p.getLsbD 1 = true → par.toNat ≤ 2) ∧ 0x20 ≤ subst ∧ subst ≤ 0x7E := by
      rw [and4_iff, hread, e0, e1, LaneSettings.valid_iff]
      refine (and_iff_right (decide_eq_true hlen)).trans (and_congr decide_eq_true_iff (and_congr decide_eq_true_iff
        (and_congr (or_congr (byte_eq_iff (by decide)).symm (byte_eq_iff (by decide)).symm) (and_assoc.trans
        (and_congr_right' (and_congr_right' (and_iff_right hle).symm))))))
    have hparse := parseLset_eq hpar
    refine iteInduction (motive := fun p => p) (fun h => ?_) fun h => ?_
    · exact exec_lset_some hask hst (hparse.trans ((if_pos (hcond.mpr h)).trans (congrArg some hread)))
    · exact exec_lset_none hask hst (hparse.trans (if_neg fun hc => h (hcond.mp hc)))
  · obtain ⟨hpres, hpar⟩ := Classical.not_imp.mp hle
    rw [if_neg fun h => hle h.2.2.2.2.2.1]
    refine exec_lset_none hask hst ?_
    unfold parseLset
    dsimp only
    rw [hbit, e5, hpres, if_pos rfl, ofCode_parity_none (Nat.lt_of_not_le hpar)]

/-! ### DSET (R109) -/

theorem DetSettings.valid_iff {x : DetSettings} (hlen : x.thresholds.length = 8) (hle : ∀ t ∈ x.thresholds, t ≤ 255) :
    x.valid = true ↔
      (∀ m n, m < n → n < 8 → x.sampleMask.getLsbD m = true → x.sampleMask.getLsbD n = true →
        x.thresholds.getD m 0 < x.thresholds.getD n 0) ∧
      x.speech ≤ 7 ∧ x.sampleMask.getLsbD x.speech = true ∧ (1 ≤ x.gapDebounce ∧ x.gapDebounce ≤ 250) ∧
      (1 ≤ x.speechDebounce ∧ x.speechDebounce ≤ 250) ∧ 1 ≤ x.holeLimit ∧ x.holeLimit ≤ 500 :=
  and8_iff.trans ((and_iff_right (decide_eq_true hlen)).trans ((and_iff_right (List.all_eq_true.mpr
    fun t ht => decide_eq_true (hle t ht))).trans (and_congr (enabledThresholds_rise_iff _ _ hlen) (and_congr
    decide_eq_true_iff (and_congr_right' (and_congr within_iff (and_congr within_iff within_iff)))))))

section
variable {s : State} {r : Req} {j : Fin 8} {b : Job}

theorem exec_dset_none (hask : s.asked r j b) (hst : inDset b.state = true) (h : parseDset b.det r.body = none) :
    exec (.dset r) s = s.answered .dset r .badField [] := by
  refine exec_of_taken (k := .dset) (handle_dset r s) hask hst ?_
  rw [show parseDset b.det (requestRecord Kind.dset.code r).body = none from h]
  rfl

theorem exec_dset_some (hask : s.asked r j b) (hst : inDset b.state = true) {x : DetSettings}
    (h : parseDset b.det r.body = some x) :
    exec (.dset r) s = (s.setJob j { b with det := x }).answered .dset r .ok [] := by
  refine exec_of_taken (k := .dset) (handle_dset r s) hask hst ?_
  rw [show parseDset b.det (requestRecord Kind.dset.code r).body = some x from h]

end

/-- Settles O22: the body byte by byte against the tests of R109. -/
theorem dsetReplacesSettings : Obligations.DsetReplacesSettings := by
  intro s r j b p sm dm sp dg ds mr h1 h0 ts hask hst hts hbody x rising
  have hin : inDset b.state = true := by
    revert hst
    cases b.state <;> decide
  have hr : Reads r.body 0 ((1, p.toNat) :: ((ts.map BitVec.toNat).map (fun t => (1, t)) ++ [(1, sm.toNat), (1, dm.toNat),
      (1, sp.toNat), (1, dg.toNat), (1, ds.toNat), (1, mr.toNat), (2, h1.toNat * 256 + h0.toNat)])) :=
    hbody ▸ (.byte p <| .bytes ts <| .byte sm <| .byte dm <| .byte sp <| .byte dg <| .byte ds <| .byte mr <|
      .pair h1 h0 <| .nil _ _)
  have hlen : r.body.length = 17 := by
    rw [hbody, List.length_append, List.length_cons, hts]
    rfl
  have hlen8 : (ts.map BitVec.toNat).length = 8 := (List.length_map _).trans hts
  obtain ⟨e0, hrow⟩ := hr
  obtain ⟨et, e9, e10, e11, e12, e13, e14, e15, -⟩ := hrow.row
  rw [hlen8] at et e9 e10 e11 e12 e13 e14 e15
  dsimp only [Nat.reduceAdd] at et e9 e10 e11 e12 e13 e14 e15
  have hbit : ∀ i, (field r.body 0 1).testBit i = p.getLsbD i := fun i => (congrArg (·.testBit i) e0).trans (BitVec.testBit_toNat p)
  have hmixed : (if (field r.body 0 1).testBit 2 then field r.body 14 1 == 1 else b.det.mixedRestart) = x.mixedRestart := by
    rw [hbit, e14, beq_one_iff]
    rfl
  have hread : readDset b.det r.body = x :=
    detSettings_congr et ((congrArg _ e9).trans (ofNat_toNat_byte sm)) ((congrArg _ e10).trans (ofNat_toNat_byte dm)) e11
      (getD_present_byte e0 e12) (getD_present_byte e0 e13) hmixed (getD_present_byte e0 e15)
  have hv := DetSettings.valid_iff (x := x) hlen8 fun t ht => by
    obtain ⟨y, -, rfl⟩ := List.mem_map.mp ht
    exact Nat.lt_succ_iff.mp y.isLt
  refine ⟨fun h => ?_, fun hbad => exec_dset_none hask hin ?_⟩
  · obtain ⟨hp, hm, hrise, hsp, hmask, hg, hg', hs, hs', hh, hh'⟩ := h
    exact exec_dset_some hask hin (parseDset_iff.mpr ⟨⟨hlen, e0.trans_lt hp, fun h => e14.trans_le (hm (hbit 2 ▸ h)),
      hread ▸ hv.mpr ⟨hrise, hsp, hmask, ⟨hg, hg'⟩, ⟨hs, hs'⟩, hh, hh'⟩⟩, hread⟩)
  · refine Option.eq_none_iff_forall_ne_some.mpr fun y hy => ?_
    obtain ⟨⟨-, hp, hm, hvalid⟩, -⟩ := parseDset_iff.mp hy
    obtain ⟨hrise, hsp, hmask, ⟨hg, hg'⟩, ⟨hs, hs'⟩, hh, hh'⟩ := hv.mp (hread ▸ hvalid)
    obtain h | h | h | h | h | h | h | h | h | h | h := hbad
    · exact Nat.not_lt.mpr h (e0.symm.trans_lt hp)
    · exact Nat.not_le.mpr h.2 (e14.symm.trans_le (hm ((hbit 2).trans h.1)))
    · exact h hrise
    · exact Nat.not_le.mpr h hsp
    · exact Bool.false_ne_true (h.symm.trans hmask)
    · exact Nat.ne_of_gt hg h
    · exact Nat.not_le.mpr h hg'
    · exact Nat.ne_of_gt hs h
    · exact Nat.not_le.mpr h hs'
    · exact Nat.ne_of_gt hh h
    · exact Nat.not_le.mpr h hh'

end Sys2Proof.Machine
end

section
/-! PROOFS. DUCK (R133), JGO (R24), HOLD (R29) and the latch (R31). -/

namespace Sys2Proof.Machine

-- No section variable stands here: the option has Lean elaborate one proof after the other (see the byte facts above).
set_option deprecated.oldSectionVars true

/-! ### DUCK (R133) -/

/-- A parameter of a DUCK body, where it is present, lies in its range. -/
def DuckRanged (body : List Byte) (i off len lo hi : Nat) : Prop :=
  (field body 1 2).testBit i = true → lo ≤ field body off len ∧ field body off len ≤ hi

/-- R132's and R196's conditions on a DUCK body. -/
def DuckValid (body : List Byte) : Prop :=
  body.length = 30 ∧ field body 0 1 ≤ 15 ∧ field body 1 2 < 512 ∧ DuckRanged body 0 3 1 8 160 ∧ DuckRanged body 1 4 1 0 80 ∧
    DuckRanged body 2 5 4 0 48000 ∧ DuckRanged body 3 9 4 0 48000 ∧ DuckRanged body 4 13 4 0 96000 ∧
    DuckRanged body 5 17 4 0 48000 ∧ DuckRanged body 6 21 4 0 48000 ∧ DuckRanged body 7 25 4 0 96000 ∧
    DuckRanged body 8 29 1 0 1

theorem parseDuck_of_valid {body : List Byte} (h : DuckValid body) (hn : field body 0 1 < 16) :
    parseDuck body = some (duckFieldsOf body hn) := by
  obtain ⟨hlen, -, hp, h0, h1, h2, h3, h4, h5, h6, h7, h8⟩ := h
  exact parseDuck_iff.mpr ⟨hn, fun h => (h8 h).2, ⟨hlen, hp, and8_iff.mpr ⟨optWithin_present.mpr h0, optWithin_present.mpr h1,
    optWithin_present.mpr h2, optWithin_present.mpr h3, optWithin_present.mpr h4, optWithin_present.mpr h5,
    optWithin_present.mpr h6, optWithin_present.mpr h7⟩⟩, rfl⟩

theorem parseDuck_of_invalid {body : List Byte} (h : ¬DuckValid body) : parseDuck body = none := by
  refine Option.eq_none_iff_forall_ne_some.mpr fun f hf => h ?_
  obtain ⟨hn, hpol, ⟨hlen, hp, hv⟩, -⟩ := parseDuck_iff.mp hf
  obtain ⟨h0, h1, h2, h3, h4, h5, h6, h7⟩ := and8_iff.mp hv
  exact ⟨hlen, Nat.le_of_lt_succ hn, hp, optWithin_present.mp h0, optWithin_present.mp h1, optWithin_present.mp h2,
    optWithin_present.mp h3, optWithin_present.mp h4, optWithin_present.mp h5, optWithin_present.mp h6,
    optWithin_present.mp h7, fun h => ⟨Nat.zero_le _, hpol h⟩⟩

section
variable {s : State} {r : Req} {j : Fin 8} {b : Job}

theorem exec_duck_refused (hask : s.asked r j b) (ho : b.state ≠ .opened) (ha : b.state ≠ .anchorWait) :
    exec (.duck r) s = s.answered .duck r .badState [] := by
  obtain ⟨hready, hj, hb⟩ := hask
  refine exec_requestOf_answered (k := .duck) hready (congrArg (answer _) ((withSlot_of_slot hj).trans
    (withJobIn_refused fun c hc => ?_)))
  obtain rfl : b = c := Slot.job.inj (hb.symm.trans hc)
  exact Bool.or_eq_false_iff.mpr ⟨beq_eq_false_iff_ne.mpr ho, beq_eq_false_iff_ne.mpr ha⟩

theorem inDuck_of {x : JobState} (h : x = .opened ∨ x = .anchorWait) : inDuck x = true := by
  obtain rfl | rfl := h <;> rfl

theorem exec_duck_none (hask : s.asked r j b) (hst : b.state = .opened ∨ b.state = .anchorWait) (h : parseDuck r.body = none) :
    exec (.duck r) s = s.answered .duck r .badField [] := by
  refine exec_of_taken (k := .duck) (handle_duck r s) hask (inDuck_of hst) ?_
  rw [show parseDuck (requestRecord Kind.duck.code r).body = none from h]
  rfl

theorem exec_duck_noTrack (hask : s.asked r j b) (hst : b.state = .opened ∨ b.state = .anchorWait) {f : DuckFields}
    (hf : parseDuck r.body = some f) (ht : b.desc? f.track = none) :
    exec (.duck r) s = s.answered .duck r .badTrack [] := by
  refine exec_of_taken (k := .duck) (handle_duck r s) hask (inDuck_of hst) ?_
  rw [show parseDuck (requestRecord Kind.duck.code r).body = some f from hf]
  dsimp only
  rw [ht]
  rfl

end

/-- Settles O23: the reader's ranges are those of R132, and the parameters not present stay. -/
theorem duckSetsParameters : Obligations.DuckSetsParameters := by
  intro s r j b hask
  refine ⟨exec_duck_refused hask, fun hst => ⟨?_, exec_duck_none hask hst, fun f hf => ⟨exec_duck_noTrack hask hst hf,
    fun t ht => ?_⟩⟩⟩
  · intro p given ranged valid
    exact ⟨fun hno => exec_duck_none hask hst (parseDuck_of_invalid hno), fun hv =>
      ⟨⟨field r.body 0 1, Nat.lt_succ_of_le hv.2.1⟩, rfl, parseDuck_of_valid hv _⟩⟩
  · intro u
    refine exec_of_taken (k := .duck) (handle_duck r s) hask (inDuck_of hst) ?_
    rw [show parseDuck (requestRecord Kind.duck.code r).body = some f from hf]
    dsimp only
    rw [ht]
    rfl

/-! ### JGO (R24) -/

theorem trackCount_eq_zero_iff (b : Job) : b.trackCount = 0 ↔ ∀ i, b.track i = none := by
  simp [Job.trackCount, mem_trackNumbers]

/-- Settles O24: no track, a track and no anchor, a track and an anchor. -/
theorem jgoStartsJob : Obligations.JgoStartsJob := by
  intro s r j b hask hst
  have hin : inOpen b.state = true := by rw [hst]; rfl
  refine ⟨fun hparse hnone => ?_, fun hsome => ?_⟩
  · obtain ⟨x, hx⟩ := Option.ne_none_iff_exists'.mp hparse
    refine exec_of_taken (k := .jgo) (handle_jgo r s) hask hin ?_
    simp only [requestRecord_body, hx, if_pos ((trackCount_eq_zero_iff b).mpr hnone), refuse]
  · have hcount : ¬b.trackCount = 0 := fun h => by
      obtain ⟨i, hi⟩ := hsome
      exact hi ((trackCount_eq_zero_iff b).mp h i)
    refine ⟨fun hbody => ?_, fun a ha hbody => ⟨b.enterRunning a, ?_, rfl, rfl, rfl, rfl, rfl, rfl, rfl, rfl, rfl, rfl, rfl,
      rfl, rfl, rfl, rfl, rfl, rfl, rfl⟩⟩
    · refine exec_of_taken (k := .jgo) (handle_jgo r s) hask hin ?_
      have hparse : parseJgo r.body = some none := by rw [hbody]; rfl
      simp only [requestRecord_body, hparse, if_neg hcount]
      rfl
    · refine exec_of_taken (k := .jgo) (handle_jgo r s) hask hin ?_
      have hparse : parseJgo r.body = some (some a) := by
        rw [hbody, parseJgo, if_neg (by simp), if_pos (by simp), field_beBytes_last (by simpa using ha)]
      have hstate : (b.enterRunning a).state = .running := rfl
      simp only [requestRecord_body, hparse, if_neg hcount, hstate]
      rfl

/-! ### HOLD (R29) -/

/-- Settles O26: the test of R30 on the job as it is held. -/
theorem holdHoldsJob : Obligations.HoldHoldsJob := by
  intro s r j b hask hst hbody
  have hin : (b.state == .running) = true := by rw [hst]; rfl
  split
  · next h =>
    obtain ⟨hseg, hlane⟩ := h
    refine exec_of_taken (k := .hold) (ok := (· == .running)) (handle_hold r s) hask hin ?_
    have hflight : (b.seg.flight.isNone && b.lane.flight.isNone) = true := by rw [hseg, hlane]; rfl
    have hstate : ({ b with state := .held }.report .held 1).state = .held := rfl
    simp only [requestRecord_body, hbody, parseEmpty_nil, Job.holdTest, Bool.and_assoc, hflight,
      beq_self_eq_true, Bool.and_true, if_true, hstate]
    rfl
  · next h =>
    refine exec_of_taken (k := .hold) (ok := (· == .running)) (handle_hold r s) hask hin ?_
    have hflight : (b.seg.flight.isNone && b.lane.flight.isNone) = false :=
      Bool.eq_false_iff.mpr fun hnone => h (by simpa using hnone)
    simp only [requestRecord_body, hbody, parseEmpty_nil, Job.holdTest, Bool.and_assoc, hflight, Bool.and_false,
      Bool.false_eq_true, if_false]
    rfl

/-! ### The latch (R31) -/

/-- A data request at a HOLDING or HELD job is latched or refused, whatever its kind. -/
theorem dataRequest_of_latching {k : Kind} {opened : Status} {wait : List Byte → Fin 8 → Job → State → Result}
    {r : LinkRecord} {s : State} {j : Fin 8} {b : Job} (hj : slotOf r.job = some j) (hb : s.slot j = .job b)
    (hst : b.state = .holding ∨ b.state = .held) : dataRequest k opened wait r s = latchRecord r j b s := by
  rw [dataRequest, withSlot_of_slot hj, hb]
  obtain h | h := hst <;> simp only [h]

theorem watermarkOf_of_job {r : LinkRecord} {s : State} {j : Fin 8} {b : Job} (hj : slotOf r.job = some j)
    (hb : s.job? j = some b) : s.watermarkOf r = b.w := by
  simp only [State.watermarkOf, hj, hb]

theorem handle_of_isData {k : Kind} (h : isData k = true) (hadv : k ≠ .adv) (r : Req) (s : State) : ∃ opened wait,
    handle (requestRecord k.code r) s =
      answer (requestRecord k.code r) (dataRequest k opened wait (requestRecord k.code r) s) := by
  revert h hadv
  cases k
  case cue | crev | clip | krev | lvl => exact fun _ _ => ⟨_, _, rfl⟩
  case adv => exact fun _ h => absurd rfl h
  all_goals exact fun h => absurd h Bool.false_ne_true

/-- The answer of a data request that goes through the latch, whatever its kind; ADV's carries W. -/
theorem exec_latched {k : Kind} {r : Req} {s u : State} {j : Fin 8} {b : Job} {st : Status} (hdata : isData k = true)
    (hask : s.asked r j b) (hst : b.state = .holding ∨ b.state = .held)
    (hl : latchRecord (requestRecord k.code r) j b s = ⟨u, st, []⟩) (hw : u.watermarkOf (requestRecord k.code r) = b.w) :
    exec (requestOf k r) s = u.answered k r st (refusalFields k b.w) := by
  obtain ⟨hready, hj, hb⟩ := hask
  have hlatch : ∀ opened wait, dataRequest k opened wait (requestRecord k.code r) s = ⟨u, st, []⟩ :=
    fun _ _ => (dataRequest_of_latching (r := requestRecord k.code r) hj hb hst).trans hl
  refine exec_requestOf_answered hready ?_
  by_cases hadv : k = .adv
  · subst hadv
    rw [handle_adv, doAdv, hlatch]
    dsimp only
    rw [hw]
    rfl
  · obtain ⟨opened, wait, hhandle⟩ := handle_of_isData hdata hadv r s
    exact hhandle.trans (congrArg (answer _) ((hlatch _ _).trans (by rw [refusalFields, if_neg hadv])))

/-- Settles O35: every data kind goes through the latch, ADV's reply carrying W. -/
theorem latchTakesData : Obligations.LatchTakesData := by
  intro k r s j b hdata hask hst
  have hj : slotOf (requestRecord k.code r).job = some j := hask.2.1
  refine iteInduction (motive := fun p => p) (fun h => exec_latched hdata hask hst (if_pos h) ?_)
    fun h => exec_latched hdata hask hst (if_neg h) ?_
  · exact watermarkOf_of_job hj (b := { b with latch := b.latch ++ [requestRecord k.code r] }) (job?_setJob_self ..)
  · exact watermarkOf_of_job hj (job?_of_slot _ _ hask.2.2)

end Sys2Proof.Machine
end

section
/-! PROOFS. The codes of requests, statuses and slot states, what an unknown code is answered (R180, R197), and the
power-on state (R187). -/

namespace Sys2Proof.Machine

-- No section variable stands here: the option has Lean elaborate one proof after the other (see the byte facts above).
set_option deprecated.oldSectionVars true

/-- A code is read as a kind exactly when it is a request's: code by code up to the last of them, 21h. -/
theorem ofCode_eq_none_iff (code : Byte) : Kind.ofCode code = none ↔ requestCodes.contains code.toNat = false := by
  by_cases h : code.toNat < 34
  · have htable : ∀ n < 34, Kind.ofCode (BitVec.ofNat 8 n) = none ↔ requestCodes.contains n = false := by decide
    have hcode := htable code.toNat h
    rwa [BitVec.ofNat_toNat, BitVec.setWidth_eq] at hcode
  · obtain ⟨m, hm⟩ := Nat.exists_eq_add_of_le' (Nat.le_of_not_lt h)
    rw [Kind.ofCode, hm]
    exact iff_of_true rfl rfl

/-- The bytes of a reply: the request's kind, the status, the fields (R180, R197). -/
theorem reply_requestRecord (kind : Byte) (r : Req) (st : Status) (fields : List Byte) (s : State) :
    s.reply (requestRecord kind r) st fields =
      s.place ⟨⟨0x80#8, r.job, 0#8, r.tag, [kind, st.code] ++ fields⟩, .reply, none, false, false⟩ := rfl

/-- A ready part answers a code that is no request's at once. -/
theorem exec_unknownKind_ready {s : State} {kind : Byte} {r : Req} (hkind : requestCodes.contains kind.toNat = false)
    (hready : s.ready = true) :
    exec (.unknownKind kind r) s =
      .next (s.place ⟨⟨0x80#8, r.job, 0#8, r.tag, [kind, 32#8]⟩, .reply, none, false, false⟩).after := by
  change Host.Outcome.next (s.submit kind r) = _
  rw [submit_of_ready hready, handle_unknown ((ofCode_eq_none_iff kind).mpr hkind)]
  rfl

/-- Settles O49: the tables of 11.2, 11.3 and R197 code by code, and the record a reply is. -/
theorem unknownKindAnswered : Obligations.UnknownKindAnswered := by
  refine ⟨fun s kind r hkind hready => exec_unknownKind_ready hkind hready, fun k r st fields s => ⟨rfl, rfl⟩, ?_,
    ofCode_eq_none_iff, ?_, fun b => ⟨rfl, fun _ => rfl, ?_⟩⟩
  · decide
  · decide
  · simp only [List.forall_mem_cons, Slot.code]
    refine ⟨?_, ?_, ?_, ?_, ?_, ?_, ?_, ?_, fun _ h => absurd h List.not_mem_nil⟩ <;> rintro h <;> rw [h] <;> rfl

/-- Settles O7: the reset state evaluated. -/
theorem resetIsPowerOnState : Obligations.ResetIsPowerOnState := by
  unfold Obligations.ResetIsPowerOnState
  decide

end Sys2Proof.Machine
end

section
/-! PROOFS. What the operations on clips, gaps and levels do, as sequences of single changes of the job. -/

namespace Sys2Proof.Machine

-- No section variable stands here: the option has Lean elaborate one proof after the other (see the byte facts above).
set_option deprecated.oldSectionVars true

/-! ### Clips -/

theorem mapLastWhere_length (p : Clip → Bool) (f : Clip → Clip) (cs : List Clip) :
    (mapLastWhere p f cs).length = cs.length := by
  induction cs with
  | nil => rfl
  | cons c cs ih =>
    exact iteInduction (motive := fun l : List Clip => l.length = cs.length + 1) (fun _ => rfl) fun _ => congrArg (· + 1) ih

/-- A track whose pending list and whose number of resolved clips are another's. -/
def DescTrack.Keeps (t u : DescTrack) : Prop := u.pending = t.pending ∧ u.placed.length = t.placed.length

/-- The breakpoints of a clip, and the previous clip's release, change no list but the points, and no length. -/
theorem envelope_keeps (z c : Nat) (dk : Int) (e : Nat) (t : DescTrack) : t.Keeps (t.envelope z c dk e) := by
  unfold DescTrack.envelope
  cases t.prev with
  | none => exact ⟨rfl, rfl⟩
  | some p =>
    refine iteInduction (fun _ => ⟨rfl, rfl⟩) fun _ => iteInduction (fun _ => ?_) fun _ => iteInduction (fun _ => ?_)
      fun _ => iteInduction (fun _ => ?_) fun _ => ?_
    all_goals exact ⟨rfl, mapLastWhere_length ..⟩

theorem DescTrack.Leaves.refl (t : DescTrack) : t.Leaves t := ⟨.refl _, le_rfl⟩

theorem finishTail_leaves (z pos r : Nat) (t : DescTrack) : t.Leaves (t.finishTail z pos r) := by
  refine ⟨.refl _, ?_⟩
  rw [DescTrack.live, DescTrack.live, List.length_append, List.length_append]
  exact Nat.add_le_add_left (mapLastWhere_length ..).le _

theorem testTail_leaves (z ws : Nat) (t : DescTrack) : t.Leaves (t.testTail z ws) := by
  unfold DescTrack.testTail
  cases t.tailState with
  | tentative =>
    cases t.prev with
    | some p => exact iteInduction (fun _ => finishTail_leaves ..) fun _ => .refl t
    | none => exact .refl t
  | _ => exact .refl t

theorem finTail_leaves (z es : Nat) (t : DescTrack) : t.Leaves (t.finTail z es) := by
  unfold DescTrack.finTail
  cases t.tailState with
  | tentative =>
    cases t.prev with
    | some p => exact finishTail_leaves ..
    | none => exact .refl t
  | _ => exact .refl t

theorem retire_leaves (a e : Nat) (last : Bool) (es : Nat) (t : DescTrack) : t.Leaves (t.retire a e last es) := by
  refine ⟨List.Sublist.refl _, ?_⟩
  simp only [DescTrack.live, DescTrack.retire, List.length_append]
  exact Nat.add_le_add_left (List.length_filter_le ..) _

/-- A resolved head moves from the pending to the placed list. -/
theorem head_leaves {t u : DescTrack} {k : Clip} (hk : t.pending.head? = some k)
    (hp : u.pending = t.pending.drop 1) (hl : u.placed.length = t.placed.length + 1) : t.Leaves u := by
  obtain ⟨rest, hrest⟩ := List.head?_eq_some_iff.mp hk
  refine ⟨hp ▸ List.drop_sublist _ _, ?_⟩
  rw [DescTrack.live, DescTrack.live, List.length_append, List.length_append, hp, hl, hrest, List.drop_one,
    List.tail_cons, List.length_cons, Nat.add_right_comm, Nat.add_assoc]

theorem sound_leaves {t : DescTrack} {k : Clip} (hk : t.pending.head? = some k) (z : Nat) (k' : Clip) (st : ClipState)
    (c : Nat) (dk : Int) (g : Option Nat) : t.Leaves (t.sound z k' st c dk g) :=
  head_leaves hk rfl ((List.length_append ..).trans (congrArg (· + 1) (envelope_keeps ..).2))

theorem dropHead_leaves {t : DescTrack} {k : Clip} (hk : t.pending.head? = some k) (k' : Clip) :
    t.Leaves (t.dropHead k') := head_leaves hk rfl (List.length_append ..)

theorem countPlacement_mark (num : Nat) (gs : List Gap) : (countPlacement num gs).map Gap.mark = gs.map Gap.mark := by
  simp only [countPlacement, List.map_map]
  refine List.map_congr_left fun g _ => ?_
  simp only [Function.comp]
  split <;> rfl

theorem Job.gaps_works {b : Job} {gs : List Gap} (h : gs.map Gap.mark = b.gaps.map Gap.mark) :
    b.Works { b with gaps := gs } := (Job.Work.gapsLeave (by rw [h])).works

/-- A head resolved: its gap counts it, the track changes, the notice is counted, gaps retire. -/
theorem Job.resolveHead_works {fin : Bool} {i : Fin 16} {b c : Job} (h : b.resolveHead fin i = some c) : b.Works c := by
  have hends : ∀ {b' : Job} {t u : DescTrack} {ev : Event}, t.Leaves u → b'.desc? i = some t →
      b'.Works (((b'.setTrack i (.desc u)).report ev 1).retireGaps) := fun hu hb' =>
    ((Job.Work.clipsLeave hb' hu.1 hu.2).works.trans (Job.report_works _ _ _)).trans (Job.retireGaps_works _)
  revert h
  unfold Job.resolveHead
  cases ht : b.desc? i with
  | none => exact fun h => by cases h
  | some t =>
    dsimp only
    cases hk : t.pending.head? with
    | none => exact fun h => by cases h
    | some k =>
      dsimp only
      generalize (if k.l < t.lowerBound k then none else fitGaps _ _ _ _ _ _ _ _) = fit
      cases fit with
      | some x =>
        intro h
        rw [← Option.some.inj h]
        exact (b.gaps_works (countPlacement_mark x.2 b.gaps)).trans (hends (sound_leaves hk ..) ht)
      | none =>
        refine iteInduction (motive := fun x => x = some c → b.Works c) (fun _ => iteInduction
          (motive := fun x => x = some c → b.Works c) (fun _ h => ?_) fun _ h => ?_) fun _ h => by cases h
        · exact Option.some.inj h ▸ hends (sound_leaves hk ..) ht
        · exact Option.some.inj h ▸ hends (dropHead_leaves hk _) ht

theorem Job.resolveHeads_works (fin : Bool) (i : Fin 16) (n : Nat) (b : Job) : b.Works (b.resolveHeads fin i n) := by
  induction n generalizing b with
  | zero => exact .refl b
  | succ n ih =>
    change b.Works (match b.resolveHead fin i with | some c => c.resolveHeads fin i n | none => b)
    cases hc : b.resolveHead fin i with
    | some c => exact (Job.resolveHead_works hc).trans (ih c)
    | none => exact .refl b

theorem Job.testTail_works (i : Fin 16) (b : Job) : b.Works (b.testTail i) :=
  b.mapDesc_works (testTail_leaves _ _) i

theorem Job.testTails_works (b : Job) : b.Works b.testTails := b.mapDescs_works (testTail_leaves _ _)

theorem Job.search_works (i : Fin 16) (b : Job) : b.Works (b.search i) :=
  (b.resolveHeads_works false i _).trans (Job.testTail_works i _)

theorem Job.searchAll_works (b : Job) : b.Works b.searchAll := Job.Works.foldl (fun b i => b.search_works i) _ b

theorem Job.resolveAtFin_works (b : Job) : b.Works b.resolveAtFin :=
  (Job.Works.foldl (fun (b : Job) i => b.resolveHeads_works true i (b.pendingCount i)) trackNumbers b).trans
    (Job.mapDescs_works (finTail_leaves _ _) _)

/-! ### The detector and the levels -/

theorem holdsGap_of_state {d : Detector} (h : d.state ≠ .gap) (h' : d.state ≠ .speechWait) : d.holdsGap = false := by
  simp [Detector.holdsGap, h, h']

/-- A detector in GAP or SPEECH_WAIT holds the gap that another held. -/
theorem holds_of_holds {d e : Detector} (hr : e.recorded = d.recorded) (hs : e.state = .gap ∨ e.state = .speechWait)
    (h : d.holdsGap = true) : e.holdsGap = true :=
  Bool.and_eq_true_iff.mpr ⟨hr.trans (Bool.and_eq_true_iff.mp h).1,
    Bool.or_eq_true_iff.mpr (hs.imp beq_iff_eq.mpr beq_iff_eq.mpr)⟩

theorem Job.closeAtFin_works (b : Job) : b.Works b.closeAtFin := by
  unfold Job.closeAtFin
  split
  · exact ((Job.Work.gapCloses b.usableEnd rfl).works.trans (Job.report_works _ _ _)).trans (Job.retireGaps_works _)
  · exact .refl b

theorem mapLast_mark {f : Gap → Gap} (hf : ∀ g, (f g).mark = g.mark) (gs : List Gap) :
    (mapLast f gs).map Gap.mark = gs.map Gap.mark := by
  induction gs with
  | nil => rfl
  | cons g gs ih =>
    cases gs with
    | nil => exact congrArg (fun x => [x]) (hf g)
    | cons h gs => exact congrArg (g.mark :: ·) ih

theorem Job.countMixed_works (mixed : Bool) (b : Job) : b.Works (b.countMixed mixed) := by
  unfold Job.countMixed
  split
  · exact b.gaps_works (mapLast_mark (f := fun g => { g with mixed := sat16 (g.mixed + 1) }) (fun _ => rfl) _)
  · exact .refl b

theorem Job.detects_works {b : Job} {d : Detector} (hn : d.nextGap = b.gd.nextGap)
    (hd : b.gd.holdsGap = true → d.holdsGap = true) : b.Works { b with gd := d } := (Job.Work.detects hn hd).works

/-- A gap opens out of a state that holds none. -/
theorem Job.openGap_works {b : Job} (h : b.gd.state = .gapWait) : b.Works b.openGap := by
  have hno : b.gd.holdsGap = false := holdsGap_of_state (by simp [h]) (by simp [h])
  unfold Job.openGap
  dsimp only
  split
  · next hl =>
    refine Job.Works.trans ?_ (Job.report_works _ _ _)
    exact (Job.Work.gapOpens hl hno rfl rfl rfl).works
  · refine Job.Works.trans ?_ (Job.report_works _ _ _)
    exact b.detects_works rfl (by simp [hno])

theorem Job.gapTest_works {b : Job} (h : b.gd.state = .gapWait) : b.Works b.gapTest := by
  unfold Job.gapTest
  split
  · exact Job.openGap_works h
  · exact .refl b

theorem Job.startRun_works {b : Job} (h : b.gd.holdsGap = false) (w : Nat) (mixed : Bool) :
    b.Works (b.startRun w mixed) :=
  (b.detects_works (by rfl) (by simp [h])).trans (Job.gapTest_works rfl)

theorem Job.closeGap_works (b : Job) : b.Works b.closeGap := by
  unfold Job.closeGap
  dsimp only
  split
  · refine Job.Works.trans (Job.Works.trans ?_ (Job.report_works _ _ _)) (Job.retireGaps_works _)
    exact (Job.Work.gapCloses (b := b) (d := b.gd.toSpeech) _ rfl).works
  · next h => exact b.detects_works rfl (by simp_all [Detector.holdsGap])

theorem Job.speechTest_works (b : Job) : b.Works b.speechTest := by
  unfold Job.speechTest
  split
  · exact b.closeGap_works
  · exact .refl b

theorem Job.detect_works (w : Nat) (loud changed mixed : Bool) (b : Job) : b.Works (b.detect w loud changed mixed) := by
  unfold Job.detect
  refine (b.reportIf_works (b.gd.state == .unsettled) .levelFirst).trans ?_
  generalize b.reportIf (b.gd.state == .unsettled) .levelFirst = c
  have hno : c.gd.state ≠ .gap → c.gd.state ≠ .speechWait → c.gd.holdsGap = false := holdsGap_of_state
  have hspeech : c.gd.holdsGap = false → c.Works { c with gd := c.gd.toSpeech } := fun h =>
    c.detects_works rfl fun h' => (Bool.false_ne_true (h.symm.trans h')).elim
  dsimp only
  cases hs : c.gd.state with
  | unsettled =>
    have h := hno (hs ▸ by decide) (hs ▸ by decide)
    cases loud
    · exact Job.startRun_works h w mixed
    · exact hspeech h
  | speech =>
    have h := hno (hs ▸ by decide) (hs ▸ by decide)
    cases loud
    · exact Job.startRun_works h w mixed
    · exact hspeech h
  | gapWait =>
    have h := hno (hs ▸ by decide) (hs ▸ by decide)
    cases loud <;> dsimp only
    · refine iteInduction (fun _ => Job.startRun_works h w mixed) fun _ => ?_
      exact (c.detects_works (by rfl) fun h' => (Bool.false_ne_true (h.symm.trans h')).elim).trans (Job.gapTest_works rfl)
    · exact hspeech h
  | gap =>
    cases loud <;> dsimp only
    · exact c.countMixed_works mixed
    · exact (c.detects_works (by rfl) (by exact holds_of_holds rfl (.inr rfl))).trans (Job.speechTest_works _)
  | speechWait =>
    cases loud <;> dsimp only
    · exact (c.detects_works (by rfl) (by exact holds_of_holds rfl (.inl rfl))).trans (Job.countMixed_works _ _)
    · exact (c.detects_works (by rfl) (by exact holds_of_holds rfl (.inr rfl))).trans (Job.speechTest_works _)

theorem Job.window_works (w : Nat) (v : Byte) (mixed : Bool) (b : Job) : b.Works (b.window w v mixed) :=
  (b.detect_works ..).trans (Job.cls_works _ _)

theorem Job.measureWindow_works (w : Nat) (v : Levels) (b : Job) : b.Works (b.measureWindow w v) :=
  (b.window_works ..).trans (Job.cls_works _ _)

theorem Job.fillWindows_works (n w : Nat) (b : Job) : b.Works (b.fillWindows n w) := by
  induction n generalizing w b with
  | zero => exact .refl b
  | succ n ih => exact (b.window_works ..).trans (ih _ _)

theorem Job.loseWindows_works (n w : Nat) (b : Job) : b.Works (b.loseWindows n w) := by
  induction n generalizing w b with
  | zero => exact .refl b
  | succ n ih => exact (b.window_works ..).trans (ih _ _)

theorem Job.measureWindows_works (vs : List Levels) (w : Nat) (b : Job) : b.Works (Job.measureWindows vs w b) := by
  induction vs generalizing w b with
  | nil => exact .refl b
  | cons v vs ih => exact (b.measureWindow_works ..).trans (ih _ _)

theorem Job.processLvl_works (f : LvlFields) (b : Job) : b.Works (b.processLvl f) :=
  (((b.fillWindows_works _ _).trans (Job.reportIf_works _ _ _)).trans
    ((Job.loseWindows_works _ _ _).trans (Job.reportIf_works _ _ _))).trans (Job.measureWindows_works _ _ _)

/-! ### Watermark, finishing, segments -/

theorem Job.raiseW_moves {b : Job} {w : Nat} (hs : b.state = .running) (hw : b.w.getD 0 ≤ w ∨ w = b.tb.span)
    (hn : w ≤ b.tb.span) : b.Moves (b.raiseW w) :=
  (Job.Move.raises hs hw hn).moves.trans (Job.testTails_works _).moves

theorem Job.finish_moves {b : Job} {e : Nat} (hs : b.state = .running) (hw : b.w.getD 0 ≤ e) (hn : e ≤ b.tb.span) :
    b.Moves (b.finish e) :=
  (Job.Move.finishes hs hw hn).moves.trans ((Job.closeAtFin_works _).trans (Job.resolveAtFin_works _)).moves

theorem Job.completeSegment_works {b : Job} {fl : SegFlight} (h : b.seg.flight = some fl) :
    b.Works (b.completeSegment fl) :=
  (((Job.Work.segmentEnds h).works.trans (Job.retireCues_works _)).trans
    (Job.mapDescs_works (retire_leaves _ _ _ _) _)).trans (Job.retireGaps_works _)

theorem Job.segmentPlaced_eq (b : Job) : (∃ c, b.Works c ∧ b.segmentPlaced = c.holdTest) ∨ b.Works b.segmentPlaced := by
  unfold Job.segmentPlaced
  cases hfl : b.seg.flight with
  | none => exact .inr (.refl b)
  | some fl =>
    dsimp only
    cases fl.todo.drop 1 with
    | nil => exact .inl ⟨_, Job.completeSegment_works hfl, rfl⟩
    | cons rec rest => exact .inr (Job.Work.segmentGoesOn hfl (rec :: rest)).works

theorem Job.segmentPlaced_moves (b : Job) : b.Moves b.segmentPlaced := by
  rcases b.segmentPlaced_eq with ⟨c, hc, h⟩ | h
  · exact h ▸ hc.moves.trans (Job.holdTest_moves c)
  · exact h.moves

theorem Job.segmentPlaced_works {b : Job} (h : b.state ≠ .holding) : b.Works b.segmentPlaced := by
  rcases b.segmentPlaced_eq with ⟨c, hc, hs⟩ | hw
  · rwa [hs, Job.holdTest_of_ne (by rwa [hc.keeps.1])]
  · exact hw

theorem Job.freeMaterial_works (b : Job) : b.Works b.freeMaterial := by
  have hcues : ∀ t : TextTrack, ∃ cs, { t with cues := [] } = { t with cues := cs } ∧
      (cs.map Cue.content).Sublist (t.cues.map Cue.content) := fun t => ⟨[], rfl, by simp⟩
  have hclips : ∀ t : DescTrack, t.Leaves { t with pending := [], placed := [], points := [], base := ⟨0, 0⟩ } :=
    fun t => ⟨by simp, by simp [DescTrack.live]⟩
  exact ((b.mapTexts_works hcues).trans (Job.mapDescs_works hclips _)).trans (Job.Work.gapsLeave (by simp)).works

theorem Job.clearKinds_works (set : KindSet) (b : Job) : b.Works (b.clearKinds set) :=
  (Job.Work.notices (.clear set)).works.trans (Job.reportIf_works _ _ _)

theorem Job.stopped_moves (b : Job) : b.Moves b.stopped :=
  ((Job.Work.segmentStops.works.trans (Job.lane_works _ _)).trans (Job.park_works _ _)).moves.trans
    (Job.Move.latch (by simp)).moves

end Sys2Proof.Machine
end

section
/-! PROOFS. What the producers, the rotation and the NOTEs do, as sequences of single changes of the part. -/

namespace Sys2Proof.Machine

-- No section variable stands here: the option has Lean elaborate one proof after the other (see the byte facts above).
set_option deprecated.oldSectionVars true

/-! ### Converting the untimed list (R28) -/

/-- A stored cue joins its track's list or, with no consumer left, leaves the job as it was (R48, R53). -/
theorem storeCue_eq (b : Job) (i : Fin 16) (t : TextTrack) (c : Cue) :
    b.storeCue i t c = b ∨
      b.storeCue i t c =
        b.setTrack i (.text { t with cues := insertCue { c with lane := b.firstMark t c } t.cues }) :=
  iteInduction (motive := fun x => x = b ∨ x = b.setTrack i (.text
    { t with cues := insertCue { c with lane := b.firstMark t c } t.cues })) (fun _ => .inl rfl) fun _ => .inr rfl

/-- One untimed entry converted joins its track, or is dropped. -/
def Converts (b : Job) (x : Untimed) (c : Job) : Prop :=
  c = b ∨
  (∃ u t k, x = .cue u ∧ b.text? u.track = some t ∧ (k.text = u.text ∧ k.laneText = u.laneText) ∧
    c = b.setTrack u.track (.text { t with cues := insertCue k t.cues })) ∨
  ∃ u t k, x = .clip u ∧ b.desc? u.track = some t ∧ t.live.length < Config.clipsPerTrack ∧
    c = b.setTrack u.track (.desc { t with pending := insertClip k t.pending })

theorem convertOne_converts (b : Job) (n : AnchCounts) (u : Untimed) : Converts b u (convertOne (b, n) u).1 := by
  cases u with
  | cue u =>
    change Converts b _ (convertCue u b n).1
    unfold convertCue
    cases ht : b.text? u.track with
    | none => exact .inl rfl
    | some t =>
      cases b.judgeCue u.startMs u.endMs with
      | refuse st => exact .inl rfl
      | take iv => exact (storeCue_eq b u.track t _).imp id fun h => .inl ⟨u, t, _, rfl, ht, ⟨rfl, rfl⟩, h⟩
  | clip u =>
    change Converts b _ (convertClip u b n).1
    unfold convertClip
    cases ht : b.desc? u.track with
    | none => exact .inl rfl
    | some t =>
      cases b.judgeClip u.startMs u.latestMs u.dur with
      | refuse st => exact .inl rfl
      | take x =>
        exact iteInduction (motive := fun y : Job × AnchCounts => Converts b (.clip u) y.1) (fun _ => .inl rfl)
          fun hl => .inr (.inr ⟨u, t, _, rfl, ht, Nat.lt_of_not_le hl, rfl⟩)

/-- A conversion changes the tracks alone, and takes its entry from the untimed list. -/
theorem Converts.works {b c : Job} {u : Untimed} (h : Converts b u c) (rest : List Untimed) :
    c = { b with tracks := c.tracks } ∧ Job.Works { b with untimed := u :: rest } { c with untimed := rest } := by
  rcases h with rfl | ⟨u, t, k, rfl, ht, hc, rfl⟩ | ⟨u, t, k, rfl, ht, hl, rfl⟩
  · exact ⟨rfl, (Job.Work.untimedLeave (List.sublist_cons_self u rest)).works⟩
  · exact ⟨rfl, (Job.Work.cueConverts (b := { b with untimed := .cue u :: rest }) rfl ht hc).works⟩
  · exact ⟨rfl, (Job.Work.clipConverts (b := { b with untimed := .clip u :: rest }) rfl ht hl k).works⟩

theorem convertFold_frame (l : List Untimed) (b : Job) (n : AnchCounts) :
    (l.foldl convertOne (b, n)).1 = { b with tracks := (l.foldl convertOne (b, n)).1.tracks } := by
  induction l generalizing b n with
  | nil => rfl
  | cons u l ih => exact (ih _ _).trans (congrArg (fun c : Job =>
      { c with tracks := (l.foldl convertOne (convertOne (b, n) u)).1.tracks }) ((convertOne_converts b n u).works []).1)

theorem convertFold_works (l : List Untimed) (b : Job) (n : AnchCounts) :
    Job.Works { b with untimed := l } { (l.foldl convertOne (b, n)).1 with untimed := [] } := by
  induction l generalizing b n with
  | nil => exact .refl _
  | cons u l ih => exact ((convertOne_converts b n u).works l).2.trans (ih _ _)

theorem Job.convert_works (b : Job) : b.Works b.convert.1 := by
  dsimp only [Job.convert]
  refine Job.Works.trans ?_ (Job.searchAll_works _)
  have h := convertFold_works b.untimed { b with untimed := [] } ⟨0, 0, 0, 0, 0, 0⟩
  have hf := convertFold_frame b.untimed { b with untimed := [] } ⟨0, 0, 0, 0, 0, 0⟩
  rw [hf] at h ⊢
  exact h

/-! ### Changes of the part -/

theorem State.Reaches.link {s t : State} (hp : t.pending = s.pending := by rfl) (hs : t.slots = s.slots := by rfl)
    (hd : t.device = s.device := by rfl) : s.Reaches t := (State.Move.link hp hs hd).reaches

theorem setJob_setJob (s : State) (j : Fin 8) (b c : Job) : (s.setJob j b).setJob j c = s.setJob j c :=
  setSlot_setSlot s j _ _

/-- A slot set to what it holds. -/
theorem slot_congr {s u : State} (h : u.slots = s.slots) (k : Fin 8) : u.slot k = s.slot k := by
  unfold State.slot
  rw [h]

theorem setSlot_same {s : State} {j : Fin 8} {x : Slot} (h : s.slot j = x) : s.setSlot j x = s := by
  subst h
  simp [State.setSlot, State.slot]

theorem setJob_same {s : State} {j : Fin 8} {b : Job} (h : s.slot j = .job b) : s.setJob j b = s := setSlot_same h

/-- Changes of a job are changes of the part. -/
theorem Job.Moves.reaches {s : State} {j : Fin 8} {b c : Job} (h : b.Moves c) (hb : s.slot j = .job b) :
    s.Reaches (s.setJob j c) := by
  induction h with
  | refl => rw [setJob_same hb]; exact .refl s
  | @tail c d _ hm ih =>
    rw [← setJob_setJob s j c d]
    exact ih.then (.job (slot_setJob_self s j c) hm)

theorem Job.Works.reaches {s : State} {j : Fin 8} {b c : Job} (h : b.Works c) (hb : s.slot j = .job b) :
    s.Reaches (s.setJob j c) := h.moves.reaches hb

theorem State.reply_reaches (s : State) (r : LinkRecord) (st : Status) (fs : List Byte) : s.Reaches (s.reply r st fs) :=
  .link

theorem State.placeOutput_reaches (s : State) (j : Fin 8) (r : LinkRecord) (l : Bool) :
    s.Reaches (s.placeOutput j r l) := .link

theorem State.alert_reaches (s : State) (k : Alert) : s.Reaches (s.alert k) :=
  (State.Move.device (.report k.index 1)).reaches

theorem State.freeSlot_reaches (s : State) (j : Fin 8) : s.Reaches (s.freeSlot j) :=
  (State.Move.frees j).reaches.trans .link

theorem State.finishPark_reaches (s : State) (j : Fin 8) (st : Status) (fs : List Byte) :
    s.Reaches (s.finishPark j st fs) := .link

/-! ### The end of a job (R30, R35) -/

theorem Job.outputComplete_state {b : Job} (h : b.outputComplete = true) : b.state = .finishing := by
  simp only [Job.outputComplete, Bool.and_eq_true, beq_iff_eq] at h
  exact h.1.1.1.1

theorem State.doneTest_reaches (j : Fin 8) (s : State) : s.Reaches (s.doneTest j) := by
  unfold State.doneTest
  cases hb : s.slot j with
  | job b =>
    refine iteInduction (fun h => ?_) fun _ => .refl s
    have hw := b.freeMaterial_works
    have hturn : b.freeMaterial.state.Turn .done := by
      rw [hw.keeps.1, Job.outputComplete_state (Bool.and_eq_true_iff.mp (Bool.and_eq_true_iff.mp h).1).1]
      exact .done
    exact ((hw.moves.then (.turns hturn)).trans (Job.report_works _ _ _).moves).reaches hb
  | _ => exact .refl s

/-- Only a FINISHING job ends. -/
theorem State.doneTest_of_ne {j : Fin 8} {s : State} (h : ∀ b, s.slot j = .job b → b.state ≠ .finishing) :
    s.doneTest j = s := by
  unfold State.doneTest
  cases hb : s.slot j with
  | job b =>
    exact if_neg fun hc => h b hb (Job.outputComplete_state (Bool.and_eq_true_iff.mp (Bool.and_eq_true_iff.mp hc).1).1)
  | _ => rfl

/-! ### The producers (R67 to R70, R94 to R96, R105, R167) -/

theorem State.placeSegment_reaches (j : Fin 8) (s : State) : s.Reaches (s.placeSegment j) := by
  unfold State.placeSegment
  cases hb : s.job? j with
  | none => exact .refl s
  | some b =>
    dsimp only
    cases b.segmentNext with
    | none => exact .refl s
    | some rec =>
      have hb' : (s.placeOutput j rec false).slot j = .job b := slot_of_job? s j hb
      exact ((s.placeOutput_reaches ..).trans (b.segmentPlaced_moves.reaches hb')).trans (State.doneTest_reaches ..)

/-- A producer's record goes to wait: the wait, then the stall it counts (R190). -/
theorem State.stall_reaches {s : State} {j : Fin 8} {b c : Job} (hb : s.job? j = some b) (h : b.Works c) :
    s.Reaches (s.setJob j (b.countStall c)) := (Job.countStall_works h).reaches (slot_of_job? s j hb)

/-- The Segmenter's loop: an emission begins only where its segment is ready. -/
theorem State.pumpSegments_reaches (j : Fin 8) (n : Nat) (s : State) : s.Reaches (s.pumpSegments j n) := by
  induction n generalizing s with
  | zero => exact .refl s
  | succ n ih =>
    rw [State.pumpSegments]
    cases hb : s.job? j with
    | none => exact .refl s
    | some b =>
      refine iteInduction (fun _ => .refl s) fun _ => ?_
      cases b.seg.flight with
      | none =>
        exact iteInduction (fun hr => ((Job.Work.segmentBegins j hr).works.reaches (slot_of_job? s j hb)).trans (ih _))
          fun _ => .refl s
      | some fl =>
        exact iteInduction (fun _ => (s.placeSegment_reaches j).trans (ih _))
          fun _ => State.stall_reaches hb Job.Work.segmentWaits.works

theorem State.finishAbort_reaches (w : AbortWait) (s : State) : s.Reaches (s.finishAbort w) :=
  (s.freeSlot_reaches w.slot).trans .link

theorem State.placeLane_reaches (j : Fin 8) (s : State) : s.Reaches (s.placeLane j) := by
  unfold State.placeLane
  cases hb : s.job? j with
  | none => exact .refl s
  | some b =>
    dsimp only
    cases b.lane.flight with
    | none => exact .refl s
    | some fl =>
      have hb' : (s.placeOutput j fl.record false).slot j = .job b := slot_of_job? s j hb
      have hcompletes : s.Reaches (((s.placeOutput j fl.record false).setJob j (b.completeLane fl).holdTest).doneTest j) :=
        ((s.placeOutput_reaches ..).trans (((b.completeLane_works fl).moves.trans (Job.holdTest_moves _)).reaches hb')).trans
          (State.doneTest_reaches ..)
      dsimp only
      cases fl.kind with
      | reset =>
        cases s.abort with
        | none => exact hcompletes
        | some w => exact (s.placeOutput_reaches ..).trans (State.finishAbort_reaches ..)
      | _ => exact hcompletes

theorem State.pumpLane_reaches (j : Fin 8) (n : Nat) (s : State) : s.Reaches (s.pumpLane j n) := by
  refine pumpLane_keeps (P := s.Reaches) (fun u b hu hb => ?_) (fun u b hu hb => ?_) (fun u hu _ => ?_)
    (fun u b hu hb => ?_) n s (.refl s)
  · exact hu.trans ((b.lane_works _).reaches (slot_of_job? u j hb))
  · exact hu.trans (((b.closeLane_works j).reaches (slot_of_job? u j hb)).trans (State.doneTest_reaches ..))
  · exact hu.trans (u.placeLane_reaches j)
  · exact hu.trans (State.stall_reaches hb (b.lane_works _))

theorem State.placePart_reaches (j : Fin 8) (s : State) : s.Reaches (s.placePart j) := by
  unfold State.placePart
  cases hb : s.job? j with
  | none => exact .refl s
  | some b =>
    dsimp only
    cases b.park with
    | none => exact .refl s
    | some p =>
      dsimp only
      cases p.todo with
      | nil => exact .refl s
      | cons rec rest =>
        have hb' : (s.placeOutput j rec rest.isEmpty).slot j = .job b := slot_of_job? s j hb
        exact (s.placeOutput_reaches ..).trans ((b.park_works _).reaches hb')

theorem State.pumpParts_reaches (j : Fin 8) (n : Nat) (s : State) : s.Reaches (s.pumpParts j n) := by
  refine pumpParts_keeps (P := s.Reaches) (fun u hu _ => ?_) (fun u b p hu hb _ => ?_) n s (.refl s)
  · exact hu.trans (u.placePart_reaches j)
  · exact hu.trans (State.stall_reaches hb (b.park_works _))

theorem State.pump_reaches (j : Fin 8) (s : State) : s.Reaches (s.pump j) :=
  (s.pumpSegments_reaches ..).trans (State.pumpLane_reaches ..)

/-! ### NOTEs (R191, R192) -/

theorem Job.notices_works {b : Job} {x : Notices} (h : Notices.Change eventBase b.notices x) :
    b.Works { b with notices := x } := (Job.Work.notices h).works

theorem State.placeJobNote_reaches (j : Fin 8) (s : State) : s.Reaches (s.placeJobNote j) := by
  unfold State.placeJobNote
  cases hb : s.job? j with
  | none => exact .refl s
  | some b =>
    have hb' := slot_of_job? s j hb
    exact iteInduction (fun _ => (Job.notices_works .withdrawn).reaches hb') fun _ =>
      State.Reaches.trans .link ((Job.notices_works .placed).reaches (s := s.place _) hb')

theorem State.placeAlertNote_reaches (s : State) : s.Reaches s.placeAlertNote :=
  iteInduction (fun _ => (State.Move.device .withdrawn).reaches) fun _ =>
    State.Reaches.trans (t := s.place _) .link (State.Move.device .placed).reaches

theorem State.noteJob_reaches (s : State) (j : Fin 8) : s.Reaches (s.noteJob j) := by
  unfold State.noteJob
  cases hb : s.job? j with
  | none => exact .refl s
  | some b =>
    exact iteInduction (fun _ => iteInduction (fun _ => s.placeJobNote_reaches j)
      fun _ => (Job.notices_works .waits).reaches (slot_of_job? s j hb)) fun _ => .refl s

theorem State.noteDevice_reaches (s : State) : s.Reaches s.noteDevice :=
  iteInduction (fun _ => iteInduction (fun _ => s.placeAlertNote_reaches) fun _ => (State.Move.device .waits).reaches)
    fun _ => .refl s

theorem State.placeNotes_reaches (s : State) : s.Reaches s.placeNotes :=
  placeNotes_keeps (P := s.Reaches) (fun u j hu => hu.trans (u.noteJob_reaches j))
    (fun u hu => hu.trans u.noteDevice_reaches) s (.refl s)

/-! ### The rotation (R182) -/

theorem State.served_reaches (c : Fin 9) (p : Producer) (s : State) : s.Reaches (s.served c p) := by
  refine State.Reaches.trans (t := { s with lastClaimant := c }) .link ?_
  unfold State.served
  cases claimantSlot c with
  | none => exact .refl _
  | some j =>
    dsimp only [State.mapJob]
    cases hb : State.slot { s with lastClaimant := c } j with
    | job b => exact (Job.Work.aside b.cls b.lane b.park p b.nextArrival).works.reaches hb
    | _ => exact .refl _

theorem State.serveOutput_reaches {f : Fin 8 → State → State} (hf : ∀ j (s : State), s.Reaches (f j s)) (c : Fin 9)
    (s : State) : s.Reaches (s.serveOutput c f) := by
  unfold State.serveOutput
  cases claimantSlot c with
  | some j => exact hf j s
  | none => exact .refl s

theorem State.serveNote_reaches (c : Fin 9) (s : State) : s.Reaches (s.serveNote c) := by
  unfold State.serveNote
  cases claimantSlot c with
  | some j => exact s.placeJobNote_reaches j
  | none => exact s.placeAlertNote_reaches

theorem State.serve_reaches (c : Fin 9) (p : Producer) (s : State) : s.Reaches (s.serve c p) := by
  have hsv := s.served_reaches c p
  cases p with
  | segmenter => exact (hsv.trans (State.serveOutput_reaches
      (fun j u => (u.placeSegment_reaches j).trans (State.pumpSegments_reaches ..)) c _)).trans .link
  | lane => exact (hsv.trans (State.serveOutput_reaches
      (fun j u => (u.placeLane_reaches j).trans (State.pumpLane_reaches ..)) c _)).trans .link
  | context => exact (hsv.trans (State.serveOutput_reaches (fun j u => u.placePart_reaches j) c _)).trans .link
  | notice =>
    exact iteInduction (fun _ => (s.serveNote_reaches c).trans .link)
      fun _ => (hsv.trans (State.serveNote_reaches c _)).trans .link

theorem State.serveDue_reaches (n : Nat) (s : State) : s.Reaches (s.serveDue n) :=
  serveDue_keeps (P := s.Reaches) (fun u c p hu _ _ => hu.trans (u.serve_reaches c p)) (fun _ hu => hu.trans .link) n s
    (.refl s)

/-! ### The transmitter and the end of a park (R168, R183) -/

theorem State.transmitBegin_reaches (s : State) : s.Reaches s.transmitBegin := by
  refine iteInduction (fun _ => ?_) fun _ => .refl s
  cases chooseEntry s.store with
  | some r => exact .link
  | none => exact .refl s

theorem State.endPark_reaches (j : Fin 8) (s : State) : s.Reaches (s.endPark j) := by
  unfold State.endPark
  cases s.job? j with
  | none => exact .refl s
  | some b =>
    dsimp only
    cases b.park with
    | some p => exact (s.finishPark_reaches ..).trans (State.freeSlot_reaches _ _)
    | none => exact .refl s

end Sys2Proof.Machine
end

section
/-! PROOFS. What the requests and the events do, as sequences of single changes of the part: every step is one. -/

namespace Sys2Proof.Machine

-- No section variable stands here: the option has Lean elaborate one proof after the other (see the byte facts above).
set_option deprecated.oldSectionVars true

/-! ### The data requests (R15, R49, R58, R112, R137, R143) -/

/-- What a data request other than ADV comes to at job b of slot j: it is refused and changes nothing, finds no room in a
pool and counts that, or leaves another job that keeps its state, timebase, watermark and latch. -/
def DataOutcome (s : State) (j : Fin 8) (b : Job) (x : Result) : Prop :=
  (x.s = s ∧ x.st.refuses = true ∧ x.fields = []) ∨
  (x.s = s.alert .poolExhausted ∧ x.st.refuses = true ∧ x.fields = []) ∨
  (x.st.refuses = false ∧ ∃ c : Job, x.s = s.setJob j c ∧ s.Reaches (s.setJob j c) ∧
    c.state = b.state ∧ c.tb = b.tb ∧ c.w = b.w ∧ c.latch = b.latch)

theorem DataOutcome.refused {s : State} {j : Fin 8} {b : Job} {st : Status} (h : st.refuses = true) :
    DataOutcome s j b ⟨s, st, []⟩ := .inl ⟨rfl, h, rfl⟩

theorem DataOutcome.taken {s : State} {j : Fin 8} {b c : Job} {st : Status} {fs : List Byte} (h : st.refuses = false)
    (hr : s.Reaches (s.setJob j c)) (hk : c.state = b.state ∧ c.tb = b.tb ∧ c.w = b.w ∧ c.latch = b.latch) :
    DataOutcome s j b ⟨s.setJob j c, st, fs⟩ := .inr (.inr ⟨h, c, rfl, hr, hk⟩)

theorem DataOutcome.reaches {s : State} {j : Fin 8} {b : Job} {x : Result} (h : DataOutcome s j b x) : s.Reaches x.s := by
  rcases h with ⟨h, -⟩ | ⟨h, -⟩ | ⟨-, c, h, hr, -⟩
  · exact h ▸ .refl s
  · exact h ▸ s.alert_reaches _
  · exact h ▸ hr

theorem Job.Works.keeps_run {b c : Job} (h : b.Works c) :
    c.state = b.state ∧ c.tb = b.tb ∧ c.w = b.w ∧ c.latch = b.latch := by
  obtain ⟨hs, htb, hw, -, hl, -⟩ := h.keeps
  exact ⟨hs, htb, hw, hl⟩

section
variable {s : State} {j : Fin 8} {b : Job}

/-- A request that only works on the job. -/
theorem DataOutcome.of_works {c : Job} {st : Status} {fs : List Byte} (hb : s.slot j = .job b) (h : st.refuses = false)
    (hw : b.Works c) : DataOutcome s j b ⟨s.setJob j c, st, fs⟩ := .taken h (hw.reaches hb) hw.keeps_run

/-- A request that takes an entry and then works on the job. -/
theorem DataOutcome.of_takes {c d : Job} {st : Status} {fs : List Byte} (h : st.refuses = false)
    (hm : s.Move (s.setJob j c)) (hk : c.state = b.state ∧ c.tb = b.tb ∧ c.w = b.w ∧ c.latch = b.latch)
    (hw : c.Works d) : DataOutcome s j b ⟨s.setJob j d, st, fs⟩ := by
  refine .taken h ?_ ?_
  · have := hm.reaches.trans (hw.reaches (slot_setJob_self s j c))
    rwa [setJob_setJob] at this
  · obtain ⟨h1, h2, h3, h4⟩ := hw.keeps_run
    obtain ⟨k1, k2, k3, k4⟩ := hk
    exact ⟨h1.trans k1, h2.trans k2, h3.trans k3, h4.trans k4⟩

/-- A refusal for want of room is one of the two outcomes that keep the job. -/
def WantsRoom (o : Option Status) : Prop := ∀ st, o = some st → st = .quotaFull ∨ st = .poolFull

theorem cueRoom_spec (b : Job) (blocks free freeBlocks : Nat) :
    WantsRoom (b.cueRoom blocks free freeBlocks) ∧ (b.cueRoom blocks free freeBlocks = none →
      b.cueCount < b.cueQuota ∧ 0 < free ∧ blocks ≤ freeBlocks) := by
  by_cases hq : b.cueQuota ≤ b.cueCount
  · rw [Job.cueRoom, if_pos hq]
    exact ⟨fun _ h => .inl (Option.some.inj h).symm, fun h => by cases h⟩
  by_cases hf : free = 0 ∨ freeBlocks < blocks
  · rw [Job.cueRoom, if_neg hq, if_pos hf]
    exact ⟨fun _ h => .inr (Option.some.inj h).symm, fun h => by cases h⟩
  obtain ⟨h0, hb⟩ := not_or.mp hf
  exact ⟨fun st h => (by rw [Job.cueRoom, if_neg hq, if_neg hf] at h; cases h),
    fun _ => ⟨Nat.lt_of_not_le hq, Nat.pos_of_ne_zero h0, Nat.le_of_not_lt hb⟩⟩

theorem clipRoom_spec (b : Job) (free : Nat) :
    WantsRoom (b.clipRoom free) ∧ (b.clipRoom free = none → b.clipCount < b.clipQuota ∧ 0 < free) := by
  by_cases hq : b.clipQuota ≤ b.clipCount
  · rw [Job.clipRoom, if_pos hq]
    exact ⟨fun _ h => .inl (Option.some.inj h).symm, fun h => by cases h⟩
  by_cases hf : free = 0
  · rw [Job.clipRoom, if_neg hq, if_pos hf]
    exact ⟨fun _ h => .inr (Option.some.inj h).symm, fun h => by cases h⟩
  exact ⟨fun st h => (by rw [Job.clipRoom, if_neg hq, if_neg hf] at h; cases h),
    fun _ => ⟨Nat.lt_of_not_le hq, Nat.pos_of_ne_zero hf⟩⟩

theorem WantsRoom.outcome {o : Option Status} (h : WantsRoom o) {st : Status} (ho : o = some st) :
    DataOutcome s j b (refuseRoom st s) := by
  rcases h st ho with rfl | rfl
  · exact .refused rfl
  · exact .inr (.inl ⟨rfl, rfl, rfl⟩)

/-- The refusals of a test of times. -/
def Verdict.Refuses {α : Type} (v : Verdict α) : Prop := ∀ st, v = .refuse st → st.refuses = true

theorem Verdict.refuse_refuses {α : Type} {st : Status} (h : st.refuses = true) : (Verdict.refuse st : Verdict α).Refuses :=
  fun _ h' => Verdict.refuse.inj h' ▸ h

theorem judgeCue_refuses (b : Job) (ts te : Nat) : (b.judgeCue ts te).Refuses := by
  refine iteInduction (fun _ => Verdict.refuse_refuses rfl) fun _ => ?_
  cases frameInterval b.tb (ts - b.tb.anchor.getD 0) (te - b.tb.anchor.getD 0) with
  | none => exact Verdict.refuse_refuses rfl
  | some iv => exact iteInduction (fun _ => Verdict.refuse_refuses rfl) fun _ st h => by cases h

theorem judgeClip_refuses (b : Job) (ts tl dur : Nat) : (b.judgeClip ts tl dur).Refuses :=
  iteInduction (fun _ => Verdict.refuse_refuses rfl) fun _ => iteInduction (fun _ => Verdict.refuse_refuses rfl)
    fun _ => iteInduction (fun _ => Verdict.refuse_refuses rfl) fun _ st h => by cases h

theorem status_refuses (clipped clamped : Bool) :
    (if clipped then Status.clipped else if clamped then .clamped else .ok).refuses = false := by
  cases clipped <;> cases clamped <;> rfl

theorem runCue_outcome (hb : s.slot j = .job b) (body : List Byte) : DataOutcome s j b (runCue body j b s) := by
  unfold runCue
  cases parseCue body with
  | none => exact .refused rfl
  | some f =>
    dsimp only
    cases ht : b.text? f.track with
    | none => exact .refused rfl
    | some t =>
      refine iteInduction (fun _ => .refused rfl) fun _ => ?_
      have hjudge := judgeCue_refuses b f.startMs f.endMs
      generalize b.judgeCue f.startMs f.endMs = v at hjudge
      cases v with
      | refuse st => exact .refused (hjudge st rfl)
      | take iv =>
        obtain ⟨hwants, hfits⟩ := cueRoom_spec b (blocksOf f.text (b.keptLaneText t f.laneText)) s.freeCues s.freeBlocks
        dsimp only
        generalize b.cueRoom _ _ _ = o at hwants hfits
        cases o with
        | some st => exact hwants.outcome rfl
        | none =>
          obtain ⟨hq, hf, hk⟩ := hfits rfl
          dsimp only
          rcases storeCue_eq { b with nextArrival := b.nextArrival + 1 } f.track t
            (cueOf f (b.keptLaneText t f.laneText) iv b.nextArrival) with h | h <;> rw [h]
          · exact .of_works hb (status_refuses ..)
              (((b.arrival_works _).trans (Job.reportIf_works _ _ _)).trans (Job.reportIf_works _ _ _))
          · exact .of_takes (status_refuses ..) (.takesCue hb hq hf hk (.stored ht rfl)) ⟨rfl, rfl, rfl, rfl⟩
              (((Job.arrival_works _ _).trans (Job.reportIf_works _ _ _)).trans (Job.reportIf_works _ _ _))

theorem waitCue_outcome (hb : s.slot j = .job b) (body : List Byte) : DataOutcome s j b (waitCue body j b s) := by
  unfold waitCue
  cases parseCue body with
  | none => exact .refused rfl
  | some f =>
    dsimp only
    cases b.text? f.track with
    | none => exact .refused rfl
    | some t =>
      refine iteInduction (fun _ => .refused rfl) fun _ => ?_
      obtain ⟨hwants, hfits⟩ := cueRoom_spec b (blocksOf f.text (b.keptLaneText t f.laneText)) s.freeCues s.freeBlocks
      generalize b.cueRoom _ _ _ = o at hwants hfits
      cases o with
      | some st => exact hwants.outcome rfl
      | none =>
        obtain ⟨hq, hf, hk⟩ := hfits rfl
        exact .of_takes rfl (.takesCue hb hq hf hk (.held rfl)) ⟨rfl, rfl, rfl, rfl⟩ (Job.arrival_works _ _)

theorem runCrev_outcome (hb : s.slot j = .job b) (body : List Byte) : DataOutcome s j b (runCrev body j b s) := by
  unfold runCrev
  cases parseRevoke body with
  | none => exact .refused rfl
  | some r =>
    dsimp only
    cases ht : b.text? r.1 with
    | none => exact .refused rfl
    | some t =>
      dsimp only
      cases t.cues.find? fun c => c.id == r.2 with
      | none => exact .refused rfl
      | some c =>
        refine iteInduction (fun _ => .refused rfl) fun _ => ?_
        exact .of_works hb rfl (Job.Work.cuesLeave ht (List.filter_sublist.map _)).works

theorem waitCrev_outcome (hb : s.slot j = .job b) (body : List Byte) : DataOutcome s j b (waitCrev body j b s) := by
  unfold waitCrev
  cases parseRevoke body with
  | none => exact .refused rfl
  | some r =>
    dsimp only
    cases b.text? r.1 with
    | none => exact .refused rfl
    | some t =>
      exact iteInduction (fun _ => .of_works hb rfl (Job.Work.untimedLeave List.filter_sublist).works)
        fun _ => .refused rfl

theorem searchIf_works (c : Bool) (i : Fin 16) (b : Job) : b.Works (if c then b.search i else b) :=
  iteInduction (fun _ => b.search_works i) fun _ => .refl b

theorem runClip_outcome (hb : s.slot j = .job b) (body : List Byte) : DataOutcome s j b (runClip body j b s) := by
  unfold runClip
  cases parseClip body with
  | none => exact .refused rfl
  | some f =>
    dsimp only
    cases ht : b.desc? f.track with
    | none => exact .refused rfl
    | some t =>
      refine iteInduction (fun _ => .refused rfl) fun _ => ?_
      have hjudge := judgeClip_refuses b f.startMs f.latestMs f.dur
      generalize b.judgeClip f.startMs f.latestMs f.dur = v at hjudge
      cases v with
      | refuse st => exact .refused (hjudge st rfl)
      | take x =>
        refine iteInduction (fun _ => .refused rfl) fun hl => ?_
        obtain ⟨hwants, hfits⟩ := clipRoom_spec b s.freeClips
        generalize b.clipRoom s.freeClips = o at hwants hfits
        cases o with
        | some st => exact hwants.outcome rfl
        | none =>
          obtain ⟨hq, hf⟩ := hfits rfl
          exact .of_takes (status_refuses ..) (.takesClip hb hq hf (.stored ht (Nat.lt_of_not_le hl)
            (clipOf f x b.nextArrival))) ⟨rfl, rfl, rfl, rfl⟩ ((Job.arrival_works _ (b.nextArrival + 1)).trans
            (searchIf_works _ _ _))

theorem waitClip_outcome (hb : s.slot j = .job b) (body : List Byte) : DataOutcome s j b (waitClip body j b s) := by
  unfold waitClip
  cases parseClip body with
  | none => exact .refused rfl
  | some f =>
    dsimp only
    cases b.desc? f.track with
    | none => exact .refused rfl
    | some t =>
      refine iteInduction (fun _ => .refused rfl) fun _ => ?_
      obtain ⟨hwants, hfits⟩ := clipRoom_spec b s.freeClips
      generalize b.clipRoom s.freeClips = o at hwants hfits
      cases o with
      | some st => exact hwants.outcome rfl
      | none =>
        obtain ⟨hq, hf⟩ := hfits rfl
        exact .of_takes rfl (.takesClip hb hq hf (.held _)) ⟨rfl, rfl, rfl, rfl⟩ (Job.arrival_works _ _)

theorem runKrev_outcome (hb : s.slot j = .job b) (body : List Byte) : DataOutcome s j b (runKrev body j b s) := by
  unfold runKrev
  cases parseRevoke body with
  | none => exact .refused rfl
  | some r =>
    dsimp only
    cases ht : b.desc? r.1 with
    | none => exact .refused rfl
    | some t =>
      refine iteInduction (fun _ => .refused rfl) fun _ => iteInduction (fun _ => ?_) fun _ => .refused rfl
      have hlive : DescTrack.Leaves t { t with pending := t.pending.filter fun c => c.id != r.2 } :=
        ⟨List.filter_sublist, ((List.filter_sublist).append_right _).length_le⟩
      exact .of_works hb rfl (((Job.Work.clipsLeave ht hlive.1 hlive.2).works.trans (Job.retireGaps_works _)).trans
        (searchIf_works _ _ _))

theorem waitKrev_outcome (hb : s.slot j = .job b) (body : List Byte) : DataOutcome s j b (waitKrev body j b s) := by
  unfold waitKrev
  cases parseRevoke body with
  | none => exact .refused rfl
  | some r =>
    dsimp only
    cases b.desc? r.1 with
    | none => exact .refused rfl
    | some t =>
      exact iteInduction (fun _ => .of_works hb rfl (Job.Work.untimedLeave List.filter_sublist).works)
        fun _ => .refused rfl

theorem runLvl_outcome (hb : s.slot j = .job b) (body : List Byte) : DataOutcome s j b (runLvl body j b s) := by
  unfold runLvl
  cases parseLvl body with
  | none => exact .refused rfl
  | some f =>
    refine .of_works hb (iteInduction (motive := fun st : Status => st.refuses = false) (fun _ => rfl) fun _ => rfl)
      ((b.processLvl_works f).trans ?_)
    exact iteInduction (fun _ => .refl _) fun _ => Job.searchAll_works _

theorem settledMoves_self (b : Job) : b.settledMoves b = false := by simp [Job.settledMoves]

/-- The Segmenter's test after a request, made only where it has left another job (R67). -/
theorem thenPump_cases (hb : s.slot j = .job b) {x : Result} (h : DataOutcome s j b x) :
    thenPump j b x = x ∨ x.st.refuses = false ∧ thenPump j b x = { x with s := x.s.pumpSegments j pumpFuel } := by
  have hself : ∀ u : State, u.slot j = .job b → (u.job? j).any b.settledMoves = false := by
    intro u hu
    simp [job?_of_slot u j hu, settledMoves_self]
  rcases h with ⟨h, -⟩ | ⟨h, -⟩ | ⟨h, -⟩
  · exact .inl (if_neg (by rw [h, hself s hb]; exact Bool.false_ne_true))
  · exact .inl (if_neg (by rw [h, hself (s.alert .poolExhausted) hb]; exact Bool.false_ne_true))
  · exact iteInduction (motive := fun y => y = x ∨ x.st.refuses = false ∧ y = { x with s := x.s.pumpSegments j pumpFuel })
      (fun _ => .inr ⟨h, rfl⟩) fun _ => .inl rfl

theorem thenPump_reaches (hb : s.slot j = .job b) {x : Result} (h : DataOutcome s j b x) :
    s.Reaches (thenPump j b x).s := by
  rcases thenPump_cases hb h with he | ⟨-, he⟩ <;> rw [he]
  · exact h.reaches
  · exact h.reaches.trans (State.pumpSegments_reaches ..)

theorem runAdv_reaches (hb : s.slot j = .job b) (hs : b.state = .running) (body : List Byte) : s.Reaches (runAdv body j b s).s := by
  unfold runAdv
  cases parseWord body with
  | none => exact .refl s
  | some n =>
    refine iteInduction (motive := fun x : Result => s.Reaches x.s) (fun _ => .refl s) fun hn => ?_
    have hw : b.w.getD 0 ≤ min n b.tb.span ∨ min n b.tb.span = b.tb.span :=
      (le_total n b.tb.span).imp (fun h => (Nat.le_of_not_lt hn).trans_eq (min_eq_left h).symm) min_eq_right
    exact ((Job.raiseW_moves hs hw (min_le_right ..)).reaches hb).trans (State.pump_reaches ..)

end

end Sys2Proof.Machine
end

section
/-! PROOFS. A RUNNING job stays RUNNING while its records are placed and its latch is processed; the requests and the
events, as sequences of single changes of the part. -/

namespace Sys2Proof.Machine

-- No section variable stands here: the option has Lean elaborate one proof after the other (see the byte facts above).
set_option deprecated.oldSectionVars true

/-! ### Producers of a RUNNING job -/

section
variable {s : State} {j : Fin 8} {b : Job}

theorem doneTest_setJob_of_running {c : Job} (h : c.state = .running) : (s.setJob j c).doneTest j = s.setJob j c :=
  State.doneTest_of_ne fun b hb => by
    rw [slot_setJob_self] at hb
    cases hb
    intro hf
    rw [h] at hf
    cases hf

theorem ne_holding {b : Job} (h : b.state = .running) : b.state ≠ .holding := fun hh => by
  rw [h] at hh
  cases hh

/-- A segment record of a RUNNING job placed. -/
theorem placeSegment_of_running (hb : s.slot j = .job b) (hs : b.state = .running) :
    s.placeSegment j = s ∨
      ∃ rec, b.segmentNext = some rec ∧ s.placeSegment j = (s.placeOutput j rec false).setJob j b.segmentPlaced := by
  rw [State.placeSegment, job?_of_slot s j hb]
  dsimp only
  cases hrec : b.segmentNext with
  | none => exact .inl rfl
  | some rec =>
    exact .inr ⟨rec, rfl, doneTest_setJob_of_running ((Job.segmentPlaced_works (ne_holding hs)).keeps.1.trans hs)⟩

/-- A LANE record of a RUNNING job placed: it completes the batch or, where an ABRT waits, may end that. -/
theorem placeLane_of_running (hb : s.slot j = .job b) (hs : b.state = .running) :
    s.placeLane j = s ∨
      (∃ (w : AbortWait) (fl : LaneFlight), s.abort = some w ∧ s.placeLane j = (s.placeOutput j fl.record false).finishAbort w) ∨
      ∃ fl, b.lane.flight = some fl ∧ s.placeLane j = (s.placeOutput j fl.record false).setJob j (b.completeLane fl) := by
  rw [State.placeLane, job?_of_slot s j hb]
  dsimp only
  cases hfl : b.lane.flight with
  | none => exact .inl rfl
  | some fl =>
    have hrun : (b.completeLane fl).state = .running := (b.completeLane_works fl).keeps.1.trans hs
    have hplace : (((s.placeOutput j fl.record false).setJob j (b.completeLane fl).holdTest).doneTest j) =
        (s.placeOutput j fl.record false).setJob j (b.completeLane fl) := by
      rw [Job.holdTest_of_ne (ne_holding hrun), doneTest_setJob_of_running hrun]
    dsimp only
    cases fl.kind with
    | batch => exact .inr (.inr ⟨fl, rfl, hplace⟩)
    | closing => exact .inr (.inr ⟨fl, rfl, hplace⟩)
    | reset =>
      cases ha : s.abort with
      | none => exact .inr (.inr ⟨fl, rfl, hplace⟩)
      | some w => exact .inr (.inl ⟨w, fl, rfl, rfl⟩)

theorem countStall_keeps {c d : Job} (h : c.Works d) : c.Works (b.countStall d) :=
  h.trans (d.reportIf_works _ _)

/-- The job a slot holds, if it does, is RUNNING. -/
def State.runs (j : Fin 8) (s : State) : Prop := ∀ b, s.slot j = .job b → b.state = .running

theorem runs_setJob {c : Job} (h : c.state = .running) : (s.setJob j c).runs j := fun b hb => by
  rw [slot_setJob_self] at hb
  cases hb
  exact h

theorem runs_setJob_of_works {c : Job} (h : s.runs j) (hb : s.job? j = some b) (hw : b.Works c) :
    (s.setJob j c).runs j := runs_setJob (hw.keeps.1.trans (h b (slot_of_job? s j hb)))

theorem placeSegment_runs (h : s.runs j) : (s.placeSegment j).runs j := by
  cases hb : s.job? j with
  | none =>
    rw [State.placeSegment, hb]
    exact h
  | some b =>
    have hslot := slot_of_job? s j hb
    have hs := h b hslot
    rcases placeSegment_of_running hslot hs with he | ⟨rec, -, he⟩ <;> rw [he]
    · exact h
    · exact runs_setJob ((Job.segmentPlaced_works (ne_holding hs)).keeps.1.trans hs)

theorem finishAbort_runs (h : s.runs j) (w : AbortWait) : (s.finishAbort w).runs j := fun b hb => by
  by_cases hw : j = w.slot
  · subst hw
    have hf : (s.finishAbort w).slot w.slot = .free := slot_freeSlot_self s w.slot
    rw [hf] at hb
    cases hb
  · exact h b ((slot_freeSlot_ne s w.slot j hw).symm.trans hb)

theorem placeLane_runs (h : s.runs j) : (s.placeLane j).runs j := by
  cases hb : s.job? j with
  | none =>
    rw [State.placeLane, hb]
    exact h
  | some b =>
    have hslot := slot_of_job? s j hb
    have hs := h b hslot
    rcases placeLane_of_running hslot hs with he | ⟨w, fl, -, he⟩ | ⟨fl, -, he⟩ <;> rw [he]
    · exact h
    · exact finishAbort_runs (s := s.placeOutput j fl.record false) h w
    · exact runs_setJob ((b.completeLane_works fl).keeps.1.trans hs)

theorem pumpSegments_runs (h : s.runs j) (n : Nat) : (s.pumpSegments j n).runs j :=
  pumpSegments_keeps (P := State.runs j) (fun _ b hu hb => runs_setJob (hu b (slot_of_job? _ j hb)))
    (fun _ hu _ => placeSegment_runs hu)
    (fun _ _ hu hb => runs_setJob_of_works hu hb (countStall_keeps Job.Work.segmentWaits.works)) n s h

theorem pumpLane_runs (h : s.runs j) (n : Nat) : (s.pumpLane j n).runs j := by
  refine pumpLane_keeps (P := State.runs j) (fun _ b hu hb => runs_setJob_of_works hu hb (b.lane_works _))
    (fun u b hu hb => ?_) (fun _ hu _ => placeLane_runs hu)
    (fun _ b hu hb => runs_setJob_of_works hu hb (countStall_keeps (b.lane_works _))) n s h
  have hs : (b.closeLane j).state = .running := (b.closeLane_works j).keeps.1.trans (hu b (slot_of_job? u j hb))
  rw [doneTest_setJob_of_running hs]
  exact runs_setJob hs

theorem pump_runs (h : s.runs j) : (s.pump j).runs j := pumpLane_runs (pumpSegments_runs h _) _

theorem DataOutcome.runs (hb : s.slot j = .job b) (hs : b.state = .running) {x : Result} (h : DataOutcome s j b x) :
    x.s.runs j := by
  have hrun : s.runs j := fun c hc => by rw [hb] at hc; cases hc; exact hs
  rcases h with ⟨h, -⟩ | ⟨h, -⟩ | ⟨-, c, h, -, hc, -⟩ <;> rw [h]
  · exact hrun
  · exact hrun
  · exact runs_setJob (hc.trans hs)

theorem thenPump_runs (hb : s.slot j = .job b) (hs : b.state = .running) {x : Result} (h : DataOutcome s j b x) :
    (thenPump j b x).s.runs j := by
  rcases thenPump_cases hb h with he | ⟨-, he⟩ <;> rw [he]
  · exact h.runs hb hs
  · exact pumpSegments_runs (h.runs hb hs) _

/-- A data record handled by a RUNNING job changes the part step by step and leaves the job, if any, RUNNING. -/
theorem runData_reaches (hb : s.slot j = .job b) (hs : b.state = .running) (k : Kind) (body : List Byte) :
    s.Reaches (runData k body j b s).s ∧ (runData k body j b s).s.runs j := by
  have hrun : s.runs j := fun c hc => by rw [hb] at hc; cases hc; exact hs
  cases k
  case cue => exact ⟨(runCue_outcome hb body).reaches, (runCue_outcome hb body).runs hb hs⟩
  case crev => exact ⟨(runCrev_outcome hb body).reaches, (runCrev_outcome hb body).runs hb hs⟩
  case clip => exact ⟨thenPump_reaches hb (runClip_outcome hb body), thenPump_runs hb hs (runClip_outcome hb body)⟩
  case krev => exact ⟨thenPump_reaches hb (runKrev_outcome hb body), thenPump_runs hb hs (runKrev_outcome hb body)⟩
  case lvl => exact ⟨thenPump_reaches hb (runLvl_outcome hb body), thenPump_runs hb hs (runLvl_outcome hb body)⟩
  case adv =>
    refine ⟨runAdv_reaches hb hs body, ?_⟩
    show (runAdv body j b s).s.runs j
    rw [runAdv]
    cases parseWord body with
    | none => exact hrun
    | some n =>
      exact iteInduction (motive := fun x : Result => x.s.runs j) (fun _ => hrun)
        fun _ => pump_runs (runs_setJob ((Job.testTails_works _).keeps.1.trans hs))
  all_goals exact ⟨.refl s, hrun⟩

end

/-- A latched record processed. -/
theorem processLatched_reaches {j : Fin 8} {x : LatchRun} (h : x.s.runs j) (rec : LinkRecord) :
    x.s.Reaches (processLatched j x rec).s ∧ (processLatched j x rec).s.runs j := by
  unfold processLatched
  cases hb : x.s.job? j with
  | none => exact ⟨.refl _, h⟩
  | some b =>
    cases Kind.ofCode rec.kind with
    | none => exact ⟨.refl _, h⟩
    | some k =>
      have hslot := slot_of_job? x.s j hb
      obtain ⟨hr, hrun⟩ := runData_reaches hslot (h b hslot) k rec.body
      dsimp only
      generalize runData k rec.body j b x.s = y at hr hrun
      refine iteInduction (motive := fun z : LatchRun => x.s.Reaches z.s ∧ z.s.runs j) (fun _ => ?_) fun _ => ⟨hr, hrun⟩
      dsimp only
      rw [State.mapJob]
      cases hc : y.s.slot j with
      | free => exact ⟨hr, hrun⟩
      | restoring _ => exact ⟨hr, hrun⟩
      | job c =>
        have hw := c.report_works .latchRefused 1
        exact ⟨hr.trans (hw.reaches hc), runs_setJob (hw.keeps.1.trans (hrun c hc))⟩

theorem processLatch_reaches {j : Fin 8} (l : List LinkRecord) {x : LatchRun} (h : x.s.runs j) :
    x.s.Reaches (l.foldl (processLatched j) x).s := by
  induction l generalizing x with
  | nil => exact .refl _
  | cons rec l ih =>
    obtain ⟨hr, hrun⟩ := processLatched_reaches h rec
    exact hr.trans (ih hrun)

/-! ### Requests on a slot -/

/-- The result leaves a state that single changes lead to. -/
def Result.From (s : State) (x : Result) : Prop := s.Reaches x.s

theorem refuse_from (st : Status) (s : State) : (refuse st s).From s := .refl s

theorem withSlot_from {r : LinkRecord} {s : State} {f : Fin 8 → Result} (h : ∀ j, (f j).From s) :
    (withSlot r s f).From s := by
  unfold withSlot
  cases slotOf r.job with
  | none => exact .refl s
  | some j => exact h j

theorem withJobIn_from {ok : JobState → Bool} {s : State} {j : Fin 8} {f : Job → Result}
    (h : ∀ b, s.slot j = .job b → ok b.state = true → (f b).From s) : (withJobIn ok s j f).From s := by
  unfold withJobIn
  cases hb : s.slot j with
  | free => exact .refl s
  | restoring _ => exact .refl s
  | job b => exact iteInduction (fun hs => h b hb hs) fun _ => .refl s

theorem doJopn_reaches (r : LinkRecord) (s : State) : (doJopn r s).From s := by
  refine withSlot_from fun j => ?_
  cases s.slot j with
  | restoring _ => exact .refl s
  | job _ => exact .refl s
  | free =>
    cases hf : parseJopn r.body with
    | none => exact .refl s
    | some f => exact (State.Move.opens (JopnFields.valid_of_parse hf)).reaches

theorem toTrack_bare (f : TdefFields) : f.toTrack.bare :=
  iteInduction (motive := Track.bare) (fun _ => ⟨rfl, rfl⟩) fun _ => rfl

theorem doTdef_reaches (r : LinkRecord) (s : State) : (doTdef r s).From s := by
  refine withSlot_from fun j => withJobIn_from fun b hb _ => ?_
  cases parseTdef r.body with
  | none => exact .refl s
  | some f =>
    exact iteInduction (fun _ => .refl s) fun _ => (Job.Move.defines f.track (toTrack_bare f)).moves.reaches hb

theorem doLset_reaches (r : LinkRecord) (s : State) : (doLset r s).From s := by
  refine withSlot_from fun j => withJobIn_from fun b hb _ => ?_
  cases parseLset r.body with
  | none => exact .refl s
  | some x => exact (Job.Move.settings x b.det).moves.reaches hb

theorem doDset_reaches (r : LinkRecord) (s : State) : (doDset r s).From s := by
  refine withSlot_from fun j => withJobIn_from fun b hb _ => ?_
  cases parseDset b.det r.body with
  | none => exact .refl s
  | some x => exact (Job.Move.settings b.laneSet x).moves.reaches hb

theorem doDuck_reaches (r : LinkRecord) (s : State) : (doDuck r s).From s := by
  refine withSlot_from fun j => withJobIn_from fun b hb _ => ?_
  cases parseDuck r.body with
  | none => exact .refl s
  | some f =>
    dsimp only
    cases ht : b.desc? f.track with
    | none => exact .refl s
    | some t =>
      exact (Job.Work.clipsLeave (u := { t with duck := f.apply t.duck }) ht (List.Sublist.refl _) le_rfl).works.reaches hb

theorem doJgo_reaches (r : LinkRecord) (s : State) : (doJgo r s).From s := by
  refine withSlot_from fun j => withJobIn_from fun b hb hs => ?_
  have hopen : b.state = .opened := beq_iff_eq.mp hs
  cases parseJgo r.body with
  | none => exact .refl s
  | some anchor =>
    refine iteInduction (fun _ => .refl s) fun _ => ?_
    cases anchor with
    | some a => exact (Job.Move.starts (.inl hopen) a).moves.reaches hb
    | none => exact (Job.Move.waitsForAnchor hopen).moves.reaches hb

theorem doAnch_reaches (r : LinkRecord) (s : State) : (doAnch r s).From s := by
  refine withSlot_from fun j => withJobIn_from fun b hb hs => ?_
  cases parseWord r.body with
  | none => exact .refl s
  | some a => exact ((Job.Move.starts (.inr (beq_iff_eq.mp hs)) a).moves.trans (Job.convert_works _).moves).reaches hb

theorem doHold_reaches (r : LinkRecord) (s : State) : (doHold r s).From s := by
  refine withSlot_from fun j => withJobIn_from fun b hb hs => ?_
  have hrun : b.state = .running := beq_iff_eq.mp hs
  cases parseEmpty r.body with
  | none => exact .refl s
  | some _ => exact ((Job.Move.turns (by rw [hrun]; exact .hold)).moves.trans (Job.holdTest_moves _)).reaches hb

theorem doRsum_reaches (r : LinkRecord) (s : State) : (doRsum r s).From s := by
  refine withSlot_from fun j => withJobIn_from fun b hb hs => ?_
  have hheld : b.state = .held := beq_iff_eq.mp hs
  cases parseEmpty r.body with
  | none => exact .refl s
  | some _ =>
    have hm : b.Moves { b with state := .running, latch := [] } :=
      (Job.Move.turns (by rw [hheld]; exact .resume)).moves.then (.latch (Nat.zero_le _))
    have hlatch := processLatch_reaches (j := j) b.latch
      (x := ⟨s.setJob j { b with state := .running, latch := [] }, 0, 0⟩) (runs_setJob rfl)
    exact ((hm.reaches hb).trans hlatch).trans (State.pump_reaches ..)

theorem doFin_reaches (r : LinkRecord) (s : State) : (doFin r s).From s := by
  refine withSlot_from fun j => withJobIn_from fun b hb hs => ?_
  cases parseWord r.body with
  | none => exact .refl s
  | some e =>
    exact iteInduction (fun _ => .refl s) fun hw => iteInduction (fun _ => .refl s) fun hn =>
      (((Job.finish_moves (beq_iff_eq.mp hs) (Nat.le_of_not_lt hw) (Nat.le_of_not_lt hn)).reaches hb).trans
        (State.pump_reaches ..)).trans (State.doneTest_reaches ..)

theorem doRls_reaches (r : LinkRecord) (s : State) : (doRls r s).From s := by
  refine withSlot_from fun j => withJobIn_from fun b _ _ => ?_
  cases parseEmpty r.body with
  | none => exact .refl s
  | some _ => exact s.freeSlot_reaches j

theorem doJqry_reaches (r : LinkRecord) (s : State) : (doJqry r s).From s := by
  refine withSlot_from fun j => ?_
  cases parseEmpty r.body <;> exact .refl s

theorem doGqry_reaches (r : LinkRecord) (s : State) : (doGqry r s).From s := by
  refine withSlot_from fun j => ?_
  cases parseGqry r.body <;> exact .refl s

theorem doDqry_reaches (r : LinkRecord) (s : State) : (doDqry r s).From s := by
  refine iteInduction (fun _ => .refl s) fun _ => ?_
  cases parseEmpty r.body <;> exact .refl s

theorem latchRecord_reaches {s : State} {j : Fin 8} {b : Job} (hb : s.slot j = .job b) (r : LinkRecord) :
    (latchRecord r j b s).From s :=
  iteInduction (fun hl => (Job.Move.latch (l := b.latch ++ [r]) (List.length_append.trans_le (Nat.succ_le_of_lt hl))).moves.reaches hb) fun _ => .refl s

theorem dataRequest_reaches (k : Kind) (opened : Status) {wait : List Byte → Fin 8 → Job → State → Result}
    (hwait : ∀ body j b (s : State), s.slot j = .job b → (wait body j b s).From s) (r : LinkRecord) (s : State) :
    (dataRequest k opened wait r s).From s := by
  refine withSlot_from fun j => ?_
  cases hb : s.slot j with
  | free => exact .refl s
  | restoring _ => exact .refl s
  | job b =>
    dsimp only
    cases hs : b.state with
    | running => exact (runData_reaches hb hs k r.body).1
    | anchorWait => exact hwait _ _ _ _ hb
    | holding => exact latchRecord_reaches hb r
    | held => exact latchRecord_reaches hb r
    | opened => exact .refl s
    | parking => exact .refl s
    | finishing => exact .refl s
    | done => exact .refl s

theorem doAdv_reaches (r : LinkRecord) (s : State) : (doAdv r s).From s :=
  dataRequest_reaches .adv .noAnchor (wait := noAnchor) (fun _ _ _ s _ => State.Reaches.refl s) r s

/-! ### NCLR and NSET -/

theorem doNclr_reaches (r : LinkRecord) (s : State) : (doNclr r s).From s := by
  refine iteInduction (fun _ => ?_) fun _ => withSlot_from fun j => withJobIn_from fun b hb _ => ?_
  · unfold nclrDevice
    cases parseWord r.body with
    | none => exact .refl s
    | some m => exact iteInduction (fun _ => (State.Move.device (.clear _)).reaches) fun _ => .refl s
  · unfold nclrJob
    cases parseWord r.body with
    | none => exact .refl s
    | some m => exact iteInduction (fun _ => (b.clearKinds_works _).reaches hb) fun _ => .refl s

theorem doNset_reaches (r : LinkRecord) (s : State) : (doNset r s).From s := by
  refine iteInduction (fun _ => ?_) fun _ => withSlot_from fun j => withJobIn_from fun b hb _ => ?_
  · unfold nsetDevice
    cases parseWord r.body with
    | none => exact .refl s
    | some m => exact iteInduction (fun _ => .refl s) fun _ => .refl s
  · unfold nsetJob
    cases parseWord r.body with
    | none => exact .refl s
    | some m => exact iteInduction (fun h => (Job.Move.enables h).moves.reaches hb) fun _ => .refl s

/-! ### ABRT and PARK -/

theorem answer_reaches {s : State} {x : Result} (h : x.From s) (r : LinkRecord) : s.Reaches (answer r x) :=
  h.trans (State.reply_reaches ..)

theorem abortPark_reaches (j : Fin 8) (b : Job) (s : State) : s.Reaches (s.abortPark j b) := by
  unfold State.abortPark
  cases b.park with
  | none => exact .refl s
  | some p => exact s.finishPark_reaches ..

theorem abortPark_slots (j : Fin 8) (b : Job) (s : State) : (s.abortPark j b).slots = s.slots := by
  unfold State.abortPark
  cases b.park <;> rfl

theorem abortJob_reaches {s : State} {j : Fin 8} {b : Job} (hb : s.slot j = .job b) (r : LinkRecord) :
    s.Reaches (abortJob r j b s) := by
  have hp := abortPark_reaches j b s
  have hb' : (s.abortPark j b).slot j = .job b := (slot_congr (abortPark_slots j b s) j).trans hb
  unfold abortJob
  generalize s.abortPark j b = s1 at hp hb'
  cases b.resetFlight j with
  | none => exact hp.trans (State.finishAbort_reaches ..)
  | some fl =>
    have hset : s1.Reaches (s1.setJob j { b.stopped with lane := { b.stopped.lane with flight := some fl } }) :=
      (b.stopped_moves.trans (Job.lane_works _ _).moves).reaches hb'
    exact (hp.trans (hset.trans .link)).trans (State.pumpLane_reaches ..)

theorem takeAbrt_reaches (r : LinkRecord) (s : State) : s.Reaches (takeAbrt r s) := by
  unfold takeAbrt
  cases slotOf r.job with
  | none => exact answer_reaches (refuse_from _ s) r
  | some j =>
    dsimp only
    cases hb : s.slot j with
    | free => exact answer_reaches (refuse_from _ s) r
    | restoring _ =>
      cases parseEmpty r.body with
      | none => exact answer_reaches (refuse_from _ s) r
      | some _ => exact answer_reaches (x := ⟨s.freeSlot j, _, _⟩) (s.freeSlot_reaches j) r
    | job b =>
      cases parseEmpty r.body with
      | none => exact answer_reaches (refuse_from _ s) r
      | some _ => exact abortJob_reaches hb r

theorem takePark_reaches (r : LinkRecord) (s : State) : s.Reaches (takePark r s) := by
  unfold takePark
  cases slotOf r.job with
  | none => exact answer_reaches (refuse_from _ s) r
  | some j =>
    dsimp only
    cases hb : s.slot j with
    | free => exact answer_reaches (refuse_from _ s) r
    | restoring _ => exact answer_reaches (refuse_from _ s) r
    | job b =>
      refine iteInduction (fun hs => ?_) fun _ => answer_reaches (refuse_from _ s) r
      cases parseEmpty r.body with
      | none => exact answer_reaches (refuse_from _ s) r
      | some _ =>
        refine iteInduction (fun _ => answer_reaches (x := ⟨s, _, _⟩) (State.Reaches.refl s) r) fun _ => ?_
        have hm : b.Moves (b.parked j s.parkSerial) :=
          ((Job.Move.turns (by rw [beq_iff_eq.mp hs]; exact .park)).moves.then (.latch (Nat.zero_le _))).trans
            (Job.park_works _ _).moves
        have hset : State.Reaches { s with parkSerial := s.parkSerial + 1#16 }
            ({ s with parkSerial := s.parkSerial + 1#16 }.setJob j (b.parked j s.parkSerial)) := hm.reaches hb
        exact (State.Reaches.trans .link (hset.trans .link)).trans (State.pumpParts_reaches ..)

end Sys2Proof.Machine
end

section
/-! PROOFS. UNPK, dispatch, the framer, the lines and the transmitter as sequences of single changes of the part; and
with them every step. -/

namespace Sys2Proof.Machine

-- No section variable stands here: the option has Lean elaborate one proof after the other (see the byte facts above).
set_option deprecated.oldSectionVars true

/-! ### What a reading has allocated (R171) -/

/-- A reading keeps to the pools' limits and to its context's quotas, and counts the blocks of its cues. -/
def Reading.Within (x : Limits) (r : Reading) : Prop :=
  (r.cues.length ≤ x.cues ∧ r.blocks ≤ x.blocks ∧ r.clips.length ≤ x.clips) ∧
    (r.cues.length ≤ r.job.cueQuota ∧ r.clips.length ≤ r.job.clipQuota) ∧
    r.blocks = total (r.cues.map fun p => blocksOf p.2.text p.2.laneText)

/-- A reading that has gone on, or stopped inside an item, keeps to the limits and to its block's job. -/
def Read.Within (x : Limits) (b : Job) : Read → Prop
  | .fail _ => True
  | .stop r | .go r => r.Within x ∧ r.job = b

theorem Read.Within.bind {x : Limits} {b : Job} {y : Read} {f : Reading → Read} (h : y.Within x b)
    (hf : ∀ r, r.Within x → r.job = b → (f r).Within x b) : (y.bind f).Within x b := by
  cases y with
  | fail => trivial
  | stop => exact h
  | go r => exact hf r h.1 h.2

theorem total_append (xs ys : List Nat) : total (xs ++ ys) = total xs + total ys := by
  induction xs with
  | nil => exact (Nat.zero_add _).symm
  | cons x xs ih => exact (congrArg (x + ·) ih).trans (Nat.add_assoc ..).symm

theorem length_concat_le {α : Type} {l : List α} {n : Nat} (a : α) (h : ¬ n ≤ l.length) : (l ++ [a]).length ≤ n :=
  List.length_append.trans_le (Nat.succ_le_of_lt (Nat.lt_of_not_le h))

theorem readCues_within {x : Limits} {b : Job} (n : Nat) {r : Reading} (h : r.Within x) (hb : r.job = b) :
    (readCues x n r).Within x b := by
  induction n generalizing r with
  | zero => exact ⟨h, hb⟩
  | succ n ih =>
    refine iteInduction (fun _ => ⟨h, hb⟩) fun _ => iteInduction (fun _ => trivial) fun _ =>
      iteInduction (fun _ => ⟨h, hb⟩) fun _ => ?_
    cases readCue r.rest with
    | none => trivial
    | some c =>
      refine iteInduction (fun _ => trivial) fun _ => iteInduction (fun _ => trivial) fun hq =>
        iteInduction (fun _ => trivial) fun hp => ih ?_ hb
      obtain ⟨⟨-, -, hclips⟩, ⟨-, hclipQuota⟩, hblocks⟩ := h
      obtain ⟨hcues, hfit⟩ := not_or.mp hp
      refine ⟨⟨length_concat_le _ hcues, Nat.le_of_not_lt hfit, hclips⟩, ⟨length_concat_le _ hq, hclipQuota⟩, ?_⟩
      rw [List.map_append, total_append, ← hblocks]
      rfl

theorem readClips_within {x : Limits} {b : Job} (n : Nat) {r : Reading} (h : r.Within x) (hb : r.job = b) :
    (readClips x n r).Within x b := by
  induction n generalizing r with
  | zero => exact ⟨h, hb⟩
  | succ n ih =>
    refine iteInduction (fun _ => ⟨h, hb⟩) fun _ => ?_
    cases readClip r.rest with
    | none => trivial
    | some c =>
      refine iteInduction (fun _ => trivial) fun _ => iteInduction (fun _ => trivial) fun hq =>
        iteInduction (fun _ => trivial) fun hp => ih ?_ hb
      obtain ⟨⟨hcues, hfit, -⟩, ⟨hcueQuota, -⟩, hblocks⟩ := h
      exact ⟨⟨hcues, hfit, length_concat_le _ hp⟩, ⟨hcueQuota, length_concat_le _ hq⟩, hblocks⟩

theorem readGaps_within {x : Limits} {b : Job} (n : Nat) {r : Reading} (h : r.Within x) (hb : r.job = b) :
    (readGaps n r).Within x b := by
  induction n generalizing r with
  | zero => exact ⟨h, hb⟩
  | succ n ih =>
    refine iteInduction (fun _ => ⟨h, hb⟩) fun _ => ?_
    cases readGap r.rest with
    | none => trivial
    | some g => exact iteInduction (fun _ => ih h hb) fun _ => trivial

theorem readLists_within {x : Limits} {b : Job} (n : Nat) {r : Reading} (h : r.Within x) (hb : r.job = b) :
    (readLists n r).Within x b := by
  induction n generalizing r with
  | zero => exact ⟨h, hb⟩
  | succ n ih =>
    refine iteInduction (fun _ => ⟨h, hb⟩) fun _ => iteInduction (fun _ => trivial) fun _ =>
      iteInduction (fun _ => ⟨h, hb⟩) fun _ => ?_
    cases readPoints (field r.rest 0 2) (r.rest.drop 2) with
    | none => trivial
    | some ps => exact iteInduction (fun _ => ih h hb) fun _ => trivial

/-- A context that is read fails, or starts from its block's job and keeps to the limits. -/
def Read.FromBlock (x : Limits) (serial : Word16) (f : Form) (bytes : List Byte) (y : Read) : Prop :=
  (∃ st, y = .fail st) ∨ ∃ k, readBlock bytes = some k ∧ k.serial = serial.toNat ∧ k.form = f ∧ y.Within x k.job

theorem readContext_within {x : Limits} {serial : Word16} {f : Form} {bytes : List Byte} {y : Read}
    (h : readContext x serial f bytes = some y) : y.FromBlock x serial f bytes := by
  revert h
  refine iteInduction (motive := (· = some y → y.FromBlock x serial f bytes)) (fun _ h => by cases h) fun _ => ?_
  cases hk : readBlock bytes with
  | none => exact fun h => .inl ⟨_, (Option.some.inj h).symm⟩
  | some k =>
    refine iteInduction (motive := (· = some y → y.FromBlock x serial f bytes))
      (fun _ h => .inl ⟨_, (Option.some.inj h).symm⟩) fun hsf => ?_
    obtain ⟨hserial, hform⟩ := not_or.mp hsf
    have h0 : Reading.Within x ⟨k.job, [], [], [], [], 0, bytes.drop 416⟩ :=
      ⟨⟨Nat.zero_le _, Nat.zero_le _, Nat.zero_le _⟩, ⟨Nat.zero_le _, Nat.zero_le _⟩, rfl⟩
    have key : ∀ z : Read, z.Within x k.job → some z = some y → y.FromBlock x serial f bytes := fun z hz h =>
      .inr ⟨k, hk, not_not.mp hserial, not_not.mp hform, Option.some.inj h ▸ hz⟩
    cases f with
    | short => exact key _ (iteInduction (fun _ => ⟨h0, rfl⟩) fun _ => trivial)
    | full =>
      exact key _ ((((readCues_within _ h0 rfl).bind fun r hr => readClips_within _ hr).bind
        fun r hr => readGaps_within _ hr).bind fun r hr => readLists_within _ hr)

theorem reading_within {x : Limits} {serial : Word16} {f : Form} {bytes : List Byte} {y : Read} {r : Reading}
    (h : readContext x serial f bytes = some y) (hy : y = .go r ∨ y = .stop r) : r.Within x := by
  rcases readContext_within h with ⟨st, rfl⟩ | ⟨k, -, -, -, hw⟩
  · rcases hy with hy | hy <;> cases hy
  · rcases hy with rfl | rfl <;> exact hw.1

/-! ### UNPK -/

theorem failAssembly_reaches (j : Fin 8) (a : Assembly) (part : Option Nat) (st : Status) (s : State) :
    (failAssembly j a part st s).From s :=
  iteInduction (motive := s.Reaches) (fun _ => (State.Move.frees j).reaches.trans (State.alert_reaches _ _))
    fun _ => (State.Move.frees j).reaches

/-- An assembly stands in its slot with what it has allocated, or is about to begin there with nothing. -/
def Assembly.At (s : State) (j : Fin 8) (a : Assembly) : Prop :=
  s.slot j = .restoring a ∨ a.cues = 0 ∧ a.blocks = 0 ∧ a.clips = 0

theorem takeLast_reaches {s : State} {j : Fin 8} (a : Assembly) (chunk : List Byte) : (takeLast j a chunk s).From s := by
  unfold takeLast
  dsimp only
  cases hr : readContext (s.limits j) a.serial a.form (a.bytes ++ chunk.take (chunk.length - 2)) with
  | none => exact failAssembly_reaches ..
  | some y =>
    cases y with
    | fail st => exact failAssembly_reaches ..
    | stop r => exact failAssembly_reaches ..
    | go r =>
      exact iteInduction (fun hok => (State.Move.restores ⟨_, _, _, r, hr, hok.2.2.2, rfl⟩).reaches)
        fun _ => failAssembly_reaches ..

theorem takeInner_reaches {s : State} {j : Fin 8} {a : Assembly} (ha : a.At s j) (chunk : List Byte) :
    (takeInner j a chunk s).From s := by
  have hgrow : ∀ (r : Reading) (bytes : List Byte), r.Within (s.limits j) →
      s.Reaches (s.setSlot j (.restoring (a.grown bytes (some r)))) := by
    rintro r bytes ⟨⟨hcues, hblocks, hclips⟩, -⟩
    exact (State.Move.assembles ⟨hcues, hblocks, hclips⟩).reaches
  unfold takeInner
  dsimp only
  cases hr : readContext (s.limits j) a.serial a.form (a.bytes ++ chunk) with
  | none =>
    rcases ha with ha | ⟨k1, k2, k3⟩
    · exact (State.Move.goesOn (c := a.grown (a.bytes ++ chunk) none) ha ⟨rfl, rfl, rfl⟩).reaches
    · exact (State.Move.assembles (a := a.grown (a.bytes ++ chunk) none) ⟨k1.trans_le (Nat.zero_le _), k2.trans_le (Nat.zero_le _),
        k3.trans_le (Nat.zero_le _)⟩).reaches
  | some y =>
    cases y with
    | fail st => exact failAssembly_reaches ..
    | stop r => exact hgrow r _ (reading_within hr (.inr rfl))
    | go r => exact hgrow r _ (reading_within hr (.inl rfl))

theorem takePart_reaches {s : State} {j : Fin 8} {a : Assembly} (ha : a.At s j) (body : List Byte) :
    (takePart j a body s).From s :=
  iteInduction (fun _ => takeLast_reaches a _) fun _ => takeInner_reaches ha _

theorem begins_empty {h : CtxHeader} {more : Bool} {a : Assembly} :
    h.begins more = some a → a.cues = 0 ∧ a.blocks = 0 ∧ a.clips = 0 := by
  unfold CtxHeader.begins
  cases Form.ofCode h.form with
  | none => exact fun ha => by cases ha
  | some f =>
    exact iteInduction (motive := (· = some a → a.cues = 0 ∧ a.blocks = 0 ∧ a.clips = 0))
      (fun _ ha => Option.some.inj ha ▸ ⟨rfl, rfl, rfl⟩) fun _ ha => by cases ha

theorem doUnpk_reaches (r : LinkRecord) (s : State) : (doUnpk r s).From s := by
  refine withSlot_from fun j => ?_
  cases ha : s.slot j with
  | job _ => exact .refl s
  | free =>
    dsimp only [unpkFree]
    cases parseUnpk r.body with
    | none => exact .refl s
    | some h =>
      dsimp only
      cases hb : h.begins r.more with
      | none => exact .refl s
      | some a => exact takePart_reaches (.inr (begins_empty hb)) _
  | restoring a =>
    dsimp only [unpkNext]
    cases parseUnpk r.body with
    | none => exact failAssembly_reaches ..
    | some h => exact iteInduction (fun _ => takePart_reaches (.inl ha) _) fun _ => failAssembly_reaches ..

/-! ### Dispatch (R180) -/

theorem slot_reset (j : Fin 8) : State.reset.slot j = .free := by
  revert j
  decide

theorem deviceReset_reaches (s : State) : s.Reaches s.deviceReset :=
  (State.Move.resets (s := s) (t := s.deviceReset) rfl slot_reset rfl).reaches

theorem takeDrst_reaches (r : LinkRecord) (s : State) : s.Reaches (takeDrst r s) := by
  refine iteInduction (fun _ => answer_reaches (refuse_from _ s) r) fun _ => ?_
  cases parseEmpty r.body with
  | none => exact answer_reaches (refuse_from _ s) r
  | some _ => exact answer_reaches (x := ⟨s.deviceReset, _, _⟩) (deviceReset_reaches s) r

/-- A record handed to its owner and answered. -/
theorem handle_reaches (r : LinkRecord) (s : State) : s.Reaches (handle r s) := by
  unfold handle
  rcases Kind.ofCode r.kind with _ | k
  · exact answer_reaches (refuse_from _ s) r
  cases k
  case jopn => exact answer_reaches (doJopn_reaches r s) r
  case tdef => exact answer_reaches (doTdef_reaches r s) r
  case lset => exact answer_reaches (doLset_reaches r s) r
  case dset => exact answer_reaches (doDset_reaches r s) r
  case duck => exact answer_reaches (doDuck_reaches r s) r
  case jgo => exact answer_reaches (doJgo_reaches r s) r
  case anch => exact answer_reaches (doAnch_reaches r s) r
  case hold => exact answer_reaches (doHold_reaches r s) r
  case rsum => exact answer_reaches (doRsum_reaches r s) r
  case fin => exact answer_reaches (doFin_reaches r s) r
  case abrt => exact takeAbrt_reaches r s
  case rls => exact answer_reaches (doRls_reaches r s) r
  case jqry => exact answer_reaches (doJqry_reaches r s) r
  case gqry => exact answer_reaches (doGqry_reaches r s) r
  case dqry => exact answer_reaches (doDqry_reaches r s) r
  case cue => exact answer_reaches (dataRequest_reaches .cue .badState
      (fun body _ _ _ hb => (waitCue_outcome hb body).reaches) r s) r
  case crev => exact answer_reaches (dataRequest_reaches .crev .badState
      (fun body _ _ _ hb => (waitCrev_outcome hb body).reaches) r s) r
  case clip => exact answer_reaches (dataRequest_reaches .clip .badState
      (fun body _ _ _ hb => (waitClip_outcome hb body).reaches) r s) r
  case krev => exact answer_reaches (dataRequest_reaches .krev .badState
      (fun body _ _ _ hb => (waitKrev_outcome hb body).reaches) r s) r
  case lvl => exact answer_reaches (dataRequest_reaches .lvl .noAnchor (wait := noAnchor) (fun _ _ _ u _ => State.Reaches.refl u) r s) r
  case adv => exact answer_reaches (doAdv_reaches r s) r
  case park => exact takePark_reaches r s
  case unpk => exact answer_reaches (doUnpk_reaches r s) r
  case nclr => exact answer_reaches (doNclr_reaches r s) r
  case nset => exact answer_reaches (doNset_reaches r s) r
  case drst => exact takeDrst_reaches r s

theorem State.drain_reaches (n : Nat) (s : State) : s.Reaches (s.drain n) :=
  drain_keeps (P := s.Reaches) (fun _ r _ hu _ _ => (hu.trans .link).trans (handle_reaches r _))
    (fun u hu => hu.trans u.placeNotes_reaches) n s (.refl s)

theorem State.settle_reaches (s : State) : s.Reaches s.settle := by
  unfold State.settle
  dsimp only
  exact (s.placeNotes_reaches.trans (State.drain_reaches _ _)).trans (State.transmitBegin_reaches _)

theorem State.flush_reaches (s : State) : s.Reaches s.flush :=
  iteInduction (fun _ => ((s.serveDue_reaches _).trans .link).trans (State.settle_reaches _)) fun _ => .refl s

theorem State.running_reaches {f : State → State} (hf : ∀ u : State, u.Reaches (f u)) (s : State) :
    s.Reaches (s.running f) :=
  iteInduction (fun _ => s.flush_reaches.trans (hf _)) fun _ => .refl s

theorem State.enqueue_reaches (r : LinkRecord) (s : State) : s.Reaches (s.enqueue r) :=
  iteInduction (fun _ => .link) fun _ => s.alert_reaches _

/-! ### The framer and the lines (R177, R178, R183, R185 to R187) -/

theorem State.abandon_reaches (k : Alert) (s : State) : s.Reaches (s.abandon k) :=
  (State.Reaches.trans (t := { s with framer := .hunt }) .link (State.alert_reaches _ k)).trans (State.settle_reaches _)

theorem State.byteIn_reaches (b : Byte) (s : State) : s.Reaches (s.byteIn b) := by
  unfold State.byteIn
  cases s.framer with
  | hunt => exact iteInduction (fun _ => .link) fun _ => .refl s
  | header got =>
    exact iteInduction (fun _ => .link) fun _ => iteInduction (fun _ => s.abandon_reaches _) fun _ => .link
  | body head len got => exact iteInduction (fun _ => .link) fun _ => .link
  | check head got a =>
    cases a with
    | none => exact .link
    | some a =>
      exact iteInduction (fun _ => (State.Reaches.trans (t := { s with framer := .hunt }) .link
        (State.enqueue_reaches _ _)).trans (State.settle_reaches _)) fun _ => s.abandon_reaches _

theorem State.afterSent_reaches (e : OutEntry) (s : State) : s.Reaches (s.afterSent e) := by
  unfold State.afterSent
  cases e.owner with
  | none => exact .refl s
  | some j =>
    exact iteInduction (fun _ => s.endPark_reaches _) fun _ => iteInduction (fun _ => s.doneTest_reaches _) fun _ => .refl s

theorem State.transmitted_reaches (s : State) : s.Reaches s.transmitted := by
  refine State.running_reaches (fun u => ?_) s
  cases u.tx with
  | none => exact .refl u
  | some t =>
    have hsent : u.Reaches (if t.holds then ({ u with tx := none } : State).afterSent t.entry else { u with tx := none }) :=
      iteInduction (fun _ => State.Reaches.trans (t := { u with tx := none }) .link (State.afterSent_reaches _ _))
        fun _ => .link
    dsimp only
    generalize (if t.holds then ({ u with tx := none } : State).afterSent t.entry else { u with tx := none }) = v at hsent ⊢
    have hnotes : u.Reaches v.placeNotes := hsent.trans v.placeNotes_reaches
    generalize v.placeNotes = w at hnotes ⊢
    exact iteInduction (fun _ => hnotes.trans .link) fun _ => hnotes.trans w.settle_reaches

theorem State.placeWhen_reaches (want : Fin 9 → Producer → State → Bool) (s : State) : s.Reaches (s.placeWhen want) := by
  refine iteInduction (fun _ => ?_) fun _ => .refl s
  cases s.turn with
  | none => exact .refl s
  | some cp =>
    refine iteInduction (fun _ => ?_) fun _ => .refl s
    have hserve := s.serve_reaches cp.1 cp.2
    exact iteInduction (fun _ => hserve) fun _ => hserve.trans (State.settle_reaches _)

theorem State.submit_reaches (kind : Byte) (r : Req) (s : State) : s.Reaches (s.submit kind r) :=
  State.running_reaches (fun u => (u.enqueue_reaches _).trans (State.settle_reaches _)) s

theorem State.resetRises_reaches (s : State) : s.Reaches s.resetRises :=
  iteInduction (fun _ => (State.Move.resets (s := s)
    (t := { State.reset with pending := s.pending, rdyIn := s.rdyIn, phase := .init }) rfl slot_reset rfl).reaches)
    fun _ => .refl s

/-! ### Every command, every step -/

theorem State.character_reaches (b : Byte) (stop : Bool) (s : State) : s.Reaches (s.character b stop) :=
  State.running_reaches (fun u => iteInduction (fun _ => iteInduction (fun _ => u.byteIn_reaches b) fun _ => .link)
    fun _ => .refl u) s

theorem State.timeout_reaches (s : State) : s.Reaches s.timeout :=
  State.running_reaches (fun u => iteInduction (fun _ => u.abandon_reaches _) fun _ => .refl u) s

theorem State.returnsHigh_reaches (s : State) : s.Reaches s.returnsHigh :=
  State.running_reaches (fun u => iteInduction (fun _ => State.Reaches.trans (t := { u with rx := .high }) .link
    (State.abandon_reaches _ _)) fun _ => .link) s

theorem State.breakShort_reaches (s : State) : s.Reaches s.breakShort := by
  refine State.running_reaches (fun u => ?_) s
  cases u.rx with
  | silence _ => exact .refl u
  | high => exact .link
  | stopLow => exact .link

theorem State.breakLong_reaches (s : State) : s.Reaches s.breakLong :=
  State.running_reaches (fun u => iteInduction (fun _ => .refl u) fun _ => (deviceReset_reaches u).trans .link) s

theorem State.readyIn_reaches (level : Bool) (s : State) : s.Reaches (s.readyIn level) :=
  (s.flush_reaches.trans .link).trans (State.transmitBegin_reaches _)

theorem State.initialised_reaches (s : State) : s.Reaches s.initialised :=
  iteInduction (fun _ => .link) fun _ => .refl s

theorem reaches_of_next {s t u : State} (h : (.next u : Answer) = .next t) (hu : s.Reaches u) : s.Reaches t := by
  cases h
  exact hu

/-- A command is a sequence of single changes of the part. -/
theorem exec_reaches {c : Instr} {s t : State} (h : exec c s = .next t) : s.Reaches t := by
  cases c with
  | characterReceived b stop => exact reaches_of_next h (s.character_reaches b stop)
  | linkTimeout => exact reaches_of_next h (s.timeout_reaches)
  | shortBreak => exact reaches_of_next h (s.breakShort_reaches)
  | longBreak => exact reaches_of_next h (s.breakLong_reaches)
  | rdyInChange level => exact reaches_of_next h (s.readyIn_reaches level)
  | resetNLow => exact reaches_of_next h .link
  | resetNRise => exact reaches_of_next h (s.resetRises_reaches)
  | initialisationEnd => exact reaches_of_next h (s.initialised_reaches)
  | recordTransmitted => exact reaches_of_next h (s.transmitted_reaches)
  | segmentRecordPlace => exact reaches_of_next h (s.placeWhen_reaches _)
  | laneBatchPlace => exact reaches_of_next h (s.placeWhen_reaches _)
  | closingFramesPlace => exact reaches_of_next h (s.placeWhen_reaches _)
  | resetFramesPlace => exact reaches_of_next h (s.placeWhen_reaches _)
  | ctxpPartPlace => exact reaches_of_next h (s.placeWhen_reaches _)
  | notePlace => exact reaches_of_next h (s.placeWhen_reaches _)
  | rxdReturnsHigh => exact reaches_of_next h (s.returnsHigh_reaches)
  | _ => exact reaches_of_next h (s.submit_reaches _ _)

/-- Every command leads to a state. -/
theorem exec_next (c : Instr) (s : State) : ∃ t, exec c s = .next t := by
  cases c <;> exact ⟨_, rfl⟩

/-- A step with a command waiting runs it; another is the idle step. -/
theorem step_cases {s t : State} (h : step s = .next t) :
    (∃ c rest, s.pending = c :: rest ∧ exec c { s with pending := rest } = .next t) ∨ s.pending = [] ∧ t = s.flush := by
  unfold step at h
  cases hp : s.pending with
  | nil =>
    rw [hp] at h
    cases h
    exact .inr ⟨rfl, rfl⟩
  | cons c rest =>
    rw [hp] at h
    exact .inl ⟨c, rest, rfl, h⟩

/-- What the single changes of the part keep, and the taking of a command from the queue, every step keeps. -/
theorem step_keeps {P : State → Prop} (hP : ∀ s t, s.Move t → P s → P t)
    (hq : ∀ (s : State) (rest : List Instr), P s → P { s with pending := rest }) {s t : State} (h : step s = .next t)
    (hs : P s) : P t := by
  rcases step_cases h with ⟨c, rest, -, hc⟩ | ⟨-, rfl⟩
  · exact (exec_reaches hc).keeps hP (hq s rest hs)
  · exact s.flush_reaches.keeps hP hs

theorem State.Move.pending {s t : State} (h : s.Move t) : t.pending = s.pending := by
  cases h <;> first | rfl | assumption

/-- Settles O1: by the equation of the step, and on an empty queue by the idle step that has no room to serve. -/
theorem stepRunsFrontCommand : Obligations.StepRunsFrontCommand := by
  refine ⟨fun c rest s => rfl, fun s hp hd => ?_⟩
  rw [step, hp]
  exact congrArg _ (flush_of_not_due hd)

/-- Settles O2: a command leads to a state, and so does the idle step. -/
theorem everyStepAnswersAState : Obligations.EveryStepAnswersAState := by
  intro s
  unfold step
  cases s.pending with
  | nil => rfl
  | cons c rest =>
    obtain ⟨t, ht⟩ := exec_next c { s with pending := rest }
    dsimp only
    rw [ht]
    rfl

/-- Settles O3: a command is a sequence of single changes, none of which touches the queue. -/
theorem execKeepsQueue : Obligations.ExecKeepsQueue := fun _ s _ h =>
  (exec_reaches h).keeps (P := fun u => u.pending = s.pending) (fun _ _ hm hu => hm.pending.trans hu) rfl

end Sys2Proof.Machine
end

section
/-! PROOFS. The invariants of every step that speak of one job at a time: sound notices (R188, R189), marks and
emissions (R13, R34, R64), the latch and the lists (R31, R48, R125, R134, R141). -/

namespace Sys2Proof.Machine

-- No section variable stands here: the option has Lean elaborate one proof after the other (see the byte facts above).
set_option deprecated.oldSectionVars true

/-! ### Properties of every job -/

theorem all_slotNumbers {p : Fin 8 → Bool} : slotNumbers.all p = true ↔ ∀ j, p j = true := by
  simp [slotNumbers, Fin.forall_fin_succ]

/-- Every job the part holds has a property. -/
def State.Jobs (P : Job → Prop) (s : State) : Prop := ∀ j b, s.slot j = .job b → P b

theorem free_ne_job (b : Job) : Slot.free ≠ .job b := Slot.noConfusion

theorem restoring_ne_job (a : Assembly) (b : Job) : Slot.restoring a ≠ .job b := Slot.noConfusion

/-- A test of every slot that only a job can fail is a test of every job. -/
theorem all_slots_iff {p : Slot → Bool} {P : Job → Prop} (hfree : p .free = true) (hrest : ∀ a, p (.restoring a) = true)
    (hjob : ∀ b, p (.job b) = true ↔ P b) {s : State} : (slotNumbers.all fun j => p (s.slot j)) = true ↔ s.Jobs P := by
  rw [all_slotNumbers]
  refine forall_congr' fun j => ?_
  cases s.slot j with
  | free => exact iff_of_true hfree fun b h => absurd h (free_ne_job b)
  | restoring a => exact iff_of_true (hrest a) fun b h => absurd h (restoring_ne_job a b)
  | job b => exact (hjob b).trans ⟨fun h c hc => Slot.job.inj hc ▸ h, fun h => h b rfl⟩

/-- A property of a job that every change of a job keeps, and that a job begins with. -/
structure JobKept (P : Job → Prop) : Prop where
  move : ∀ {b c : Job}, b.Move c → P b → P c
  takesCue : ∀ {b c : Job} {n : Nat}, b.TakesCue n c → P b → P c
  takesClip : ∀ {b c : Job}, b.TakesClip c → P b → P c
  opened : ∀ f : JopnFields, P (openedJob f)
  restored : ∀ {x : Limits} {b : Job}, b.RestoredWithin x → P b

theorem State.Jobs.setSlot {P : Job → Prop} {s : State} {j : Fin 8} {x : Slot} (h : s.Jobs P)
    (hx : ∀ b, x = .job b → P b) : (s.setSlot j x).Jobs P := by
  intro k b hb
  by_cases hk : k = j
  · rw [hk, slot_setSlot_self] at hb
    exact hx b hb
  · rw [slot_setSlot_ne s j k x hk] at hb
    exact h k b hb

theorem State.Jobs.setJob {P : Job → Prop} {s : State} {j : Fin 8} {c : Job} (h : s.Jobs P) (hc : P c) :
    (s.setJob j c).Jobs P := h.setSlot fun _ hb => Slot.job.inj hb ▸ hc

theorem JobKept.jobs {P : Job → Prop} (hP : JobKept P) {s t : State} (h : s.Move t) (hs : s.Jobs P) : t.Jobs P := by
  cases h with
  | link _ hslots _ => exact fun j b hb => hs j b (by rwa [State.slot, ← hslots])
  | device => exact hs
  | job hb h => exact hs.setJob (hP.move h (hs _ _ hb))
  | takesCue hb _ _ _ h => exact hs.setJob (hP.takesCue h (hs _ _ hb))
  | takesClip hb _ _ h => exact hs.setJob (hP.takesClip h (hs _ _ hb))
  | frees => exact hs.setSlot fun b h => absurd h (free_ne_job b)
  | opens => exact hs.setJob (hP.opened _)
  | assembles => exact hs.setSlot fun b h => absurd h (restoring_ne_job _ b)
  | goesOn => exact hs.setSlot fun b h => absurd h (restoring_ne_job _ b)
  | restores h => exact hs.setJob (hP.restored h)
  | resets _ hfree _ => exact fun j b hb => absurd ((hfree j).symm.trans hb) (free_ne_job b)

/-- Every step keeps a property of every job that every change of a job keeps. -/
theorem JobKept.step {P : Job → Prop} (hP : JobKept P) {s t : State} (h : step s = .next t) (hs : s.Jobs P) : t.Jobs P :=
  step_keeps (P := State.Jobs P) (fun _ _ => hP.jobs) (fun _ _ hu => hu) h hs

/-! ### The job a context makes (R174) -/

theorem Job.mapText_tracks (b : Job) (i : Fin 16) (f : TextTrack → TextTrack) :
    ∃ ts, b.mapText i f = { b with tracks := ts } := by
  unfold Job.mapText
  cases b.text? i <;> exact ⟨_, rfl⟩

theorem Job.mapDesc_tracks (b : Job) (i : Fin 16) (f : DescTrack → DescTrack) :
    ∃ ts, b.mapDesc i f = { b with tracks := ts } := by
  unfold Job.mapDesc
  cases b.desc? i <;> exact ⟨_, rfl⟩

theorem foldl_tracks {α : Type} {f : Job → α → Job} (hf : ∀ b a, ∃ ts, f b a = { b with tracks := ts }) (l : List α)
    (b : Job) : ∃ ts, l.foldl f b = { b with tracks := ts } := by
  induction l generalizing b with
  | nil => exact ⟨b.tracks, rfl⟩
  | cons a l ih =>
    obtain ⟨ts, hts⟩ := ih (f b a)
    obtain ⟨us, hus⟩ := hf b a
    exact ⟨ts, by rw [List.foldl_cons, hts, hus]⟩

/-- The job of a reading is its block's but for the track table and the Gap List. -/
theorem Reading.build_eq (r : Reading) : ∃ ts, r.build = { r.job with tracks := ts, gaps := r.gaps } := by
  unfold Reading.build
  dsimp only
  generalize h1 : trackNumbers.foldl _ r.job = b1
  generalize h2 : trackNumbers.foldl _ b1 = b2
  generalize h3 : List.foldl _ b2 _ = b3
  obtain ⟨t1, e1⟩ : ∃ ts, b1 = { r.job with tracks := ts } := h1 ▸ foldl_tracks (fun b i => b.mapText_tracks i _) _ _
  obtain ⟨t2, e2⟩ : ∃ ts, b2 = { b1 with tracks := ts } := h2 ▸ foldl_tracks (fun b i => b.mapDesc_tracks i _) _ _
  obtain ⟨t3, e3⟩ : ∃ ts, b3 = { b2 with tracks := ts } := h3 ▸ foldl_tracks (fun b (p : Fin 16 × List Breakpoint) => b.mapDesc_tracks p.1 _) _ _
  exact ⟨t3, by rw [e3, e2, e1]⟩

/-- What stands in a job read from a block whatever its bytes are (R174). -/
structure Job.FromBlock (b : Job) : Prop where
  state : b.state = .held
  w : b.w ≠ none
  e : b.e = none
  untimed : b.untimed = []
  latch : b.latch = []
  flight : b.seg.flight = none
  notices : ∃ set, kindsWithin eventSet set = true ∧ b.notices = Notices.opened set

theorem blockRanges_enables {b : Job} (h : b.blockRanges = true) : kindsWithin eventSet b.notices.enables = true := by
  have h5 := (Bool.and_eq_true_iff.mp (Bool.and_eq_true_iff.mp (Bool.and_eq_true_iff.mp (Bool.and_eq_true_iff.mp
    (Bool.and_eq_true_iff.mp h).1).1).1).1).1
  exact beq_iff_eq.mpr (of_decide_eq_true (Bool.and_eq_true_iff.mp h5).2)
theorem readBlock_fromBlock {bs : List Byte} {k : Block} (h : readBlock bs = some k) : k.job.FromBlock := by
  rw [readBlock] at h
  generalize readTracks _ _ _ _ = x1 at h
  generalize readLane _ = x2 at h
  generalize readDet _ = x3 at h
  generalize readAll _ _ = x4 at h
  generalize readFlag _ = x5 at h
  generalize readOptByte (bs.drop 339) = x6 at h
  generalize readOptByte (bs.drop 341) = x7 at h
  generalize readDetector _ = x8 at h
  generalize Form.ofCode _ = x9 at h
  rcases x1 with _ | ts
  · cases h
  rcases x2 with _ | ls
  · cases h
  rcases x3 with _ | det
  · cases h
  rcases x4 with _ | svs
  · cases h
  rcases x5 with _ | seen
  · cases h
  rcases x6 with _ | lv
  · cases h
  rcases x7 with _ | pm
  · cases h
  rcases x8 with _ | gd
  · cases h
  rcases x9 with _ | f
  · cases h
  have hr := Option.ite_none_right_eq_some.mp h
  rw [← Option.some.inj hr.2]
  exact ⟨rfl, Option.some_ne_none _, rfl, rfl, rfl, rfl, _, blockRanges_enables hr.1, rfl⟩

/-- A restored job is its block's, and R172 accepts it. -/
theorem Job.RestoredWithin.facts {x : Limits} {b : Job} (h : b.RestoredWithin x) :
    b.FromBlock ∧ b.progressAgrees ∧ b.detectorAgrees ∧ b.gapListAgrees ∧
      (∃ items, b.cuesAgree items) ∧ ∃ items, b.clipsAgree items := by
  obtain ⟨serial, f, bytes, r, hread, hok, rfl⟩ := h
  obtain ⟨-, hprogress, hdetector, hgaps, hcues, -, hclips, -⟩ := (reading_ok_iff f r).mp hok
  refine ⟨?_, hprogress, hdetector, hgaps, ⟨_, hcues⟩, _, hclips⟩
  rcases readContext_within hread with ⟨st, hst⟩ | ⟨k, hk, -, -, -, hjob⟩
  · cases hst
  · obtain ⟨ts, hts⟩ := r.build_eq
    rw [hts, hjob]
    obtain ⟨h1, h2, h3, h4, h5, h6, h7⟩ := readBlock_fromBlock hk
    exact ⟨h1, h2, h3, h4, h5, h6, h7⟩

/-! ### Notices (R188, R189) -/

theorem Notices.Change.enables {base : Nat} {x y : Notices} (h : Change base x y) : y.enables = x.enables := by
  cases h <;> rfl

theorem Notices.sound_iff {n : Nat} {cls : KindSet} {x : Notices} : x.sound n cls = true ↔
    x.counts.length = n ∧ (∀ c ∈ x.counts, c ≤ 255) ∧ kindsWithin cls x.enables = true := by
  simp [Notices.sound, and_assoc]

theorem Notices.Change.sound {base n : Nat} {cls : KindSet} {x y : Notices} (h : Change base x y)
    (hx : x.sound n cls = true) : y.sound n cls = true := by
  rw [Notices.sound_iff] at hx ⊢
  obtain ⟨hlen, hle, hset⟩ := hx
  refine ⟨?_, ?_, h.enables ▸ hset⟩
  · cases h with
    | report => exact List.length_set.trans hlen
    | clear => simpa [Notices.clear, Notices.kinds] using hlen
    | _ => exact hlen
  · cases h with
    | report =>
      intro c hc
      rcases List.mem_or_eq_of_mem_set hc with hc | rfl
      · exact hle c hc
      · exact Nat.min_le_left _ _
    | clear =>
      intro c hc
      obtain ⟨p, hp, rfl⟩ := List.mem_map.mp hc
      split
      · exact Nat.zero_le _
      · exact hle _ (List.of_mem_zip hp).1
    | _ => exact hle

theorem opened_sound {set : KindSet} (h : kindsWithin eventSet set = true) :
    (Notices.opened set).sound 17 eventSet = true := by
  rw [Notices.sound_iff]
  exact ⟨rfl, fun c hc => (List.eq_of_mem_replicate hc).trans_le (Nat.zero_le _), h⟩

theorem soundNotices_kept : JobKept fun b => b.notices.sound 17 eventSet = true where
  move h hb := by
    cases h with
    | work h =>
      cases h with
      | notices h => exact h.sound hb
      | _ => exact hb
    | enables h =>
      rw [Notices.sound_iff] at hb ⊢
      exact ⟨hb.1, hb.2.1, h⟩
    | _ => exact hb
  takesCue h hb := by cases h <;> exact hb
  takesClip h hb := by cases h <;> exact hb
  opened _ := opened_sound (by decide)
  restored h := by
    obtain ⟨set, hset, hn⟩ := h.facts.1.notices
    exact hn ▸ opened_sound hset

/-- The device keeps its six counts and its alerts enabled. -/
theorem State.Move.device_sound {s t : State} (h : s.Move t)
    (hs : s.device.sound 6 alertSet = true ∧ s.device.enables = alertSet) :
    t.device.sound 6 alertSet = true ∧ t.device.enables = alertSet := by
  cases h with
  | link _ _ hd => rwa [hd]
  | device h => exact ⟨h.sound hs.1, h.enables.trans hs.2⟩
  | resets _ _ hd =>
    rw [hd]
    decide
  | _ => exact hs

theorem noticesSound_iff {s : State} : s.noticesSound = true ↔
    s.Jobs (fun b => b.notices.sound 17 eventSet = true) ∧ s.device.sound 6 alertSet = true ∧
      s.device.enables = alertSet := by
  simp only [State.noticesSound, Bool.and_eq_true, beq_iff_eq, and_assoc,
    all_slots_iff (p := Slot.noticesSound) (P := fun b => b.notices.sound 17 eventSet = true) rfl (fun _ => rfl)
      fun _ => Iff.rfl]

/-- Settles O5: each single change of a claimant's notices keeps them sound. -/
theorem stepKeepsNoticesSound : Obligations.StepKeepsNoticesSound := by
  intro s t hs h
  rw [noticesSound_iff] at hs ⊢
  exact ⟨soundNotices_kept.step h hs.1, step_keeps
    (P := fun u => u.device.sound 6 alertSet = true ∧ u.device.enables = alertSet) (fun _ _ => State.Move.device_sound)
    (fun _ _ hu => hu) h hs.2⟩

end Sys2Proof.Machine
end

section
/-! PROOFS. Marks and emissions (R13, R34, R64) at every step. -/

namespace Sys2Proof.Machine

-- No section variable stands here: the option has Lean elaborate one proof after the other (see the byte facts above).
set_option deprecated.oldSectionVars true

/-! ### Marks and emissions (R13, R34, R64) -/

/-- W and E of a job of a state and a span, as every step keeps them (R13, R34). -/
structure Marks (wm em : Option Nat) (st : JobState) (n : Nat) : Prop where
  w : ∀ w, wm = some w → st.started = true ∧ w ≤ n
  noW : wm = none → st.started = false
  e : ∀ e, em = some e → (st = .finishing ∨ st = .done) ∧ wm = some e
  noE : em = none → st ≠ .finishing ∧ st ≠ .done

/-- A job's marks are in order. -/
def Job.Marked (b : Job) : Prop := Marks b.w b.e b.state b.tb.span

theorem marksOk_iff {b : Job} : b.marksOk = true ↔ b.Marked := by
  unfold Job.marksOk
  constructor
  · intro h
    obtain ⟨hw, he⟩ := Bool.and_eq_true_iff.mp h
    refine ⟨fun w h => ?_, fun h => ?_, fun e h => ?_, fun h => ?_⟩
    · rw [h] at hw
      exact (Bool.and_eq_true_iff.mp hw).imp_right of_decide_eq_true
    · rw [h] at hw
      exact (Bool.not_eq_true' _).mp hw
    · rw [h] at he
      obtain ⟨hs, hw⟩ := Bool.and_eq_true_iff.mp he
      exact ⟨(Bool.or_eq_true_iff.mp hs).imp eq_of_beq eq_of_beq, eq_of_beq hw⟩
    · rw [h] at he
      exact (Bool.and_eq_true_iff.mp he).imp bne_iff_ne.mp bne_iff_ne.mp
  · rintro ⟨hw, hnw, he, hne⟩
    refine Bool.and_eq_true_iff.mpr ⟨?_, ?_⟩
    · cases h : b.w with
      | some w => exact Bool.and_eq_true_iff.mpr ((hw w h).imp_right decide_eq_true)
      | none => exact (Bool.not_eq_true' _).mpr (hnw h)
    · cases h : b.e with
      | some e =>
        exact Bool.and_eq_true_iff.mpr ⟨Bool.or_eq_true_iff.mpr ((he e h).1.imp beq_iff_eq.mpr beq_iff_eq.mpr),
          beq_iff_eq.mpr (he e h).2⟩
      | none => exact Bool.and_eq_true_iff.mpr ((hne h).imp bne_iff_ne.mpr bne_iff_ne.mpr)

theorem Job.Marked.running {b : Job} (h : b.Marked) (hs : b.state = .running) :
    ∃ w, b.w = some w ∧ w ≤ b.tb.span ∧ b.e = none := by
  cases hw : b.w with
  | none => cases (hs ▸ h.noW hw : JobState.started .running = false)
  | some w =>
    refine ⟨w, rfl, (h.w w hw).2, ?_⟩
    cases he : b.e with
    | none => rfl
    | some e =>
      rcases (h.e e he).1 with hf | hf
      · cases hs.symm.trans hf
      · cases hs.symm.trans hf

/-- A turn of the state from one that has started to one that has, in FINISHING to DONE. -/
theorem JobState.Turn.started {x y : JobState} (h : x.Turn y) : x.started = true ∧ y.started = true ∧
    (y = .finishing ∨ y = .done ↔ x = .finishing ∨ x = .done) := by
  cases h <;> exact ⟨rfl, rfl, by decide⟩

theorem marked_move {b c : Job} (h : b.Move c) (hb : b.Marked) : c.Marked := by
  cases h with
  | work h =>
    obtain ⟨hs, htb, hw, he, -⟩ := h.works.keeps
    rwa [Job.Marked, hs, htb, hw, he]
  | waitsForAnchor ho =>
    refine ⟨fun w hw => ?_, fun _ => rfl, fun e he => ?_,
      fun _ => (by decide : JobState.anchorWait ≠ .finishing ∧ JobState.anchorWait ≠ .done)⟩
    · have hst := (hb.w w hw).1
      rw [ho] at hst
      cases hst
    · have hst := (hb.e e he).1
      rw [ho] at hst
      rcases hst with hst | hst <;> cases hst
  | starts ho a =>
    have hne : b.e = none := by
      cases he : b.e with
      | none => rfl
      | some e =>
        have hst := (hb.e e he).1
        rcases ho with ho | ho <;> rw [ho] at hst <;> rcases hst with hst | hst <;> cases hst
    exact ⟨fun w hw => ⟨rfl, by cases hw; exact Nat.zero_le _⟩, (fun h => by cases h), fun e he => absurd (hne.symm.trans he) (fun h => by cases h),
      fun _ => (by decide : JobState.running ≠ .finishing ∧ JobState.running ≠ .done)⟩
  | turns h =>
    obtain ⟨hb1, hc1, hf⟩ := h.started
    exact ⟨fun w hw => ⟨hc1, (hb.w w hw).2⟩, fun hw => absurd ((hb.noW hw).symm.trans hb1) (fun h => by cases h),
      fun e he => (hb.e e he).imp_left hf.mpr, fun he => not_or.mp fun hc => not_or.mpr (hb.noE he) (hf.mp hc)⟩
  | raises hs _ hn =>
    obtain ⟨-, -, -, he⟩ := hb.running hs
    exact ⟨fun w hw => ⟨by rw [hs]; rfl, by cases hw; exact hn⟩, (fun h => by cases h), fun e h => absurd (he.symm.trans h) (fun h => by cases h),
      hb.noE⟩
  | finishes hs _ hn =>
    exact ⟨fun w hw => ⟨rfl, by cases hw; exact hn⟩, (fun h => by cases h), fun e he => ⟨.inl rfl, he⟩, (fun h => by cases h)⟩
  | _ => exact hb

theorem marked_kept : JobKept Job.Marked where
  move := marked_move
  takesCue h hb := by cases h <;> exact hb
  takesClip h hb := by cases h <;> exact hb
  opened _ := ⟨fun _ h => (by cases h), fun _ => rfl, fun _ h => (by cases h),
    fun _ => (by decide : JobState.opened ≠ .finishing ∧ JobState.opened ≠ .done)⟩
  restored h := by
    obtain ⟨hf, hprogress, -⟩ := h.facts
    refine ⟨fun w hw => ⟨by rw [hf.state]; rfl, ?_⟩, fun hw => absurd hw hf.w, fun e he => ?_, fun _ => ?_⟩
    · have hle := hprogress.1
      rwa [hw] at hle
    · cases hf.e.symm.trans he
    · rw [hf.state]
      decide

/-- The end frame of the segments before segment k, while no end frame is set. -/
theorem through_of_noE {b : Job} (h : b.e = none) (k : Nat) : b.through k = k * b.segLen := by rw [Job.through, h]

theorem through_of_e {b : Job} {e : Nat} (h : b.e = some e) (k : Nat) : b.through k = min (k * b.segLen) e := by
  rw [Job.through, h]

theorem segmentEnd_eq (b : Job) : b.segmentEnd = b.through (b.seg.next + 1) := rfl

/-- The Segmenter's marks as every step keeps them from RUNNING onward (R64). -/
def Job.Emits (b : Job) : Prop :=
  b.seg.emitted = b.through b.seg.next ∧ b.seg.emitted ≤ b.w.getD 0 ∧
    ∀ fl, b.seg.flight = some fl → fl.index = b.seg.next ∧ fl.startF = b.seg.next * b.segLen ∧
      fl.endF = b.through (b.seg.next + 1) ∧ fl.endF ≤ b.w.getD 0

theorem emissionOk_iff {b : Job} : b.emissionOk = true ↔ (b.state.started = true → b.Emits) := by
  unfold Job.emissionOk
  constructor
  · intro h hs
    rw [hs] at h
    obtain ⟨h12, h3⟩ := Bool.and_eq_true_iff.mp h
    obtain ⟨h1, h2⟩ := Bool.and_eq_true_iff.mp h12
    refine ⟨of_decide_eq_true h1, of_decide_eq_true h2, fun fl hfl => ?_⟩
    rw [hfl] at h3
    simpa [and_assoc] using h3
  · intro h
    cases hs : b.state.started with
    | false => rfl
    | true =>
      obtain ⟨h1, h2, h3⟩ := h hs
      refine Bool.and_eq_true_iff.mpr ⟨Bool.and_eq_true_iff.mpr ⟨decide_eq_true h1, decide_eq_true h2⟩, ?_⟩
      cases hfl : b.seg.flight with
      | none => rfl
      | some fl => simpa [and_assoc] using h3 fl hfl

/-- The end of a ready segment lies at or below W. -/
theorem segmentEnd_le_of_ready {b : Job} (hm : b.Marked) (hr : b.segmentReady = true) : b.segmentEnd ≤ b.w.getD 0 := by
  unfold Job.segmentReady at hr
  cases hs : b.state <;> rw [hs] at hr
  case running => exact of_decide_eq_true (Bool.and_eq_true_iff.mp hr).1
  case finishing =>
    cases he : b.e with
    | none => exact absurd hs (hm.noE he).1
    | some e =>
      rw [(hm.e e he).2, segmentEnd_eq, through_of_e he]
      exact Nat.min_le_right _ _
  all_goals cases hr

/-- FIN and ADV raise W: the marks of the Segmenter stay, and an end frame is not below what was emitted. -/
theorem Job.Emits.raised {b c : Job} (h : b.Emits) (hseg : c.seg = b.seg) (hlen : c.segLen = b.segLen)
    (hw : b.w.getD 0 ≤ c.w.getD 0) (hb : b.e = none) (hc : c.e = none ∨ c.e = some (c.w.getD 0)) : c.Emits := by
  have hth : ∀ k, b.through k ≤ b.w.getD 0 → c.through k = b.through k := fun k hk => by
    rw [through_of_noE hb] at hk ⊢
    rcases hc with hc | hc
    · rw [through_of_noE hc, hlen]
    · rw [through_of_e hc, hlen, Nat.min_eq_left (hk.trans hw)]
  obtain ⟨h1, h2, h3⟩ := h
  refine ⟨by rw [hseg, hth _ (h1 ▸ h2), h1], by rw [hseg]; exact h2.trans hw, fun fl hfl => ?_⟩
  rw [hseg] at hfl
  obtain ⟨hi, hst, hend, hle⟩ := h3 fl hfl
  exact ⟨by rw [hseg, hi], by rw [hseg, hlen, hst], by rw [hseg, hth _ (hend ▸ hle), hend], hle.trans hw⟩

theorem emits_work {b c : Job} (hm : b.Marked) (h : b.Work c) (hb : b.Emits) : c.Emits := by
  obtain ⟨h1, h2, h3⟩ := id hb
  cases h with
  | segmentBegins j hr =>
    exact ⟨h1, h2, fun fl hfl => by cases hfl; exact ⟨rfl, rfl, rfl, segmentEnd_le_of_ready hm hr⟩⟩
  | segmentGoesOn hfl rest => exact ⟨h1, h2, fun fl h => by
    have hold := h3 _ hfl
    cases h
    exact hold⟩
  | segmentEnds hfl =>
    obtain ⟨hi, -, hend, hle⟩ := h3 _ hfl
    exact ⟨by rw [hi]; exact hend, hle, fun fl h => by cases h⟩
  | segmentStops => exact ⟨h1, h2, fun fl h => by cases h⟩
  | _ => exact hb

/-- Marks and emissions together, as every step keeps them. -/
def Job.InProgress (b : Job) : Prop := b.Marked ∧ (b.state.started = true → b.Emits)

theorem inProgress_move {b c : Job} (h : b.Move c) (hb : b.InProgress) : c.InProgress := by
  obtain ⟨hm, he⟩ := hb
  refine ⟨marked_move h hm, fun hs => ?_⟩
  cases h with
  | work h => exact emits_work hm h (he (h.works.keeps.1 ▸ hs))
  | waitsForAnchor => cases hs
  | starts ho a =>
    refine ⟨?_, Nat.zero_le _, fun fl h => by cases h⟩
    have hz : ∀ e : Option Nat, (match e with | some e => min (0 * b.segLen) e | none => 0 * b.segLen) = 0 := fun e => by
      cases e <;> simp
    exact (hz b.e).symm
  | turns h => exact he h.started.1
  | raises hr hw hn =>
    obtain ⟨w, hbw, hle, hbe⟩ := hm.running hr
    refine (he hs).raised rfl rfl ?_ hbe (.inl hbe)
    rw [hbw] at hw ⊢
    exact hw.elim id fun h => h ▸ hle
  | finishes hr hw hn =>
    obtain ⟨w, hbw, hle, hbe⟩ := hm.running hr
    exact (he (by rw [hr]; rfl)).raised rfl rfl hw hbe (.inr rfl)
  | _ => exact he hs

theorem inProgress_kept : JobKept Job.InProgress where
  move := inProgress_move
  takesCue h hb := by cases h <;> exact hb
  takesClip h hb := by cases h <;> exact hb
  opened f := ⟨marked_kept.opened f, fun hs => by cases hs⟩
  restored h := by
    obtain ⟨hf, ⟨-, hseg, hle, -⟩, -⟩ := h.facts
    exact ⟨marked_kept.restored h, fun _ => ⟨by rw [through_of_noE hf.e, hseg], hle, fun fl hfl => by
      cases hf.flight.symm.trans hfl⟩⟩

end Sys2Proof.Machine
end

section
/-! PROOFS. The latch and the lists at every step (R31, R48, R125, R134, R141). -/

namespace Sys2Proof.Machine

-- No section variable stands here: the option has Lean elaborate one proof after the other (see the byte facts above).
set_option deprecated.oldSectionVars true

/-! ### The Gap List (R125) -/

/-- The Gap List of a detector whose next gap number is n, and that holds a recorded gap or not (R125). -/
def GapsOrdered (gs : List Gap) (n : Nat) (held : Bool) : Prop :=
  gs.length ≤ Config.gapListSize ∧ gs.Pairwise (fun x y => x.num < y.num ∧ x.endS ≠ none) ∧
    ∀ g ∈ gs, g.num < n ∧ (g.endS = none → held = true)

theorem gapListOk_iff {b : Job} : b.gapListOk = true ↔ GapsOrdered b.gaps b.gd.nextGap b.gd.holdsGap := by
  simp [Job.gapListOk, GapsOrdered, and_assoc, or_iff_not_imp_left]

/-- The order of the Gap List reads no more than the gaps' marks. -/
theorem GapsOrdered.sublist {gs hs : List Gap} {n : Nat} {held : Bool} (hb : GapsOrdered gs n held)
    (h : (hs.map Gap.mark).Sublist (gs.map Gap.mark)) : GapsOrdered hs n held := by
  obtain ⟨hlen, hp, ha⟩ := hb
  have hp' : (gs.map Gap.mark).Pairwise (fun x y => x.1 < y.1 ∧ x.2 ≠ none) := List.pairwise_map.mpr hp
  refine ⟨?_, List.pairwise_map.mp (hp'.sublist h), fun g hg => ?_⟩
  · have hle := h.length_le
    rw [List.length_map, List.length_map] at hle
    exact hle.trans hlen
  · obtain ⟨k, hk, he⟩ := List.mem_map.mp (h.subset (List.mem_map_of_mem hg))
    obtain ⟨hnum, hend⟩ := Prod.mk.inj he
    rw [← hnum, ← hend]
    exact ha k hk

/-- A gap that opens takes the next number, behind gaps that are all closed. -/
theorem GapsOrdered.opens {gs : List Gap} {g : Gap} {n : Nat} (hb : GapsOrdered gs n false)
    (hlen : gs.length < Config.gapListSize) (hg : g.num = n) : GapsOrdered (gs ++ [g]) (n + 1) true := by
  obtain ⟨-, hp, ha⟩ := hb
  refine ⟨by rw [List.length_append]; exact hlen, List.pairwise_append.mpr ⟨hp, List.pairwise_singleton _ _,
    fun x hx y hy => ?_⟩, fun x hx => ⟨?_, fun _ => rfl⟩⟩
  · rw [List.mem_singleton.mp hy, hg]
    exact (ha x hx).imp_right fun h he => Bool.false_ne_true (h he)
  · rcases List.mem_append.mp hx with hx | hx
    · exact (ha x hx).1.trans (Nat.lt_succ_self n)
    · rw [List.mem_singleton.mp hx, hg]
      exact Nat.lt_succ_self n

/-- Closing the last gap of a list whose others are closed closes them all. -/
theorem mapLast_close {gs : List Gap} (e : Nat) (hp : gs.Pairwise fun x y => x.num < y.num ∧ x.endS ≠ none) :
    (mapLast (fun g => { g with endS := some e }) gs).map Gap.num = gs.map Gap.num ∧
      ∀ g ∈ mapLast (fun g => { g with endS := some e }) gs, g.endS ≠ none := by
  induction gs with
  | nil => exact ⟨rfl, fun g hg => absurd hg List.not_mem_nil⟩
  | cons g gs ih =>
    cases gs with
    | nil => exact ⟨rfl, fun k hk => List.mem_singleton.mp hk ▸ Option.some_ne_none e⟩
    | cons k ks =>
      obtain ⟨hg, hrest⟩ := List.pairwise_cons.mp hp
      obtain ⟨hnum, hend⟩ := ih hrest
      refine ⟨congrArg (g.num :: ·) hnum, fun x hx => ?_⟩
      rcases List.mem_cons.mp hx with rfl | hx
      · exact (hg k List.mem_cons_self).2
      · exact hend x hx

theorem GapsOrdered.closes {gs : List Gap} {n : Nat} {held : Bool} (hb : GapsOrdered gs n held) (e : Nat)
    (held' : Bool) : GapsOrdered (mapLast (fun g => { g with endS := some e }) gs) n held' := by
  obtain ⟨hlen, hp, ha⟩ := hb
  obtain ⟨hnum, hend⟩ := mapLast_close e hp
  generalize mapLast _ gs = hs at hnum hend
  have hn : hs.Pairwise fun x y => x.num < y.num := List.pairwise_map.mp
    (hnum ▸ List.pairwise_map.mpr (hp.imp And.left) : (hs.map Gap.num).Pairwise (· < ·))
  refine ⟨?_, hn.imp_of_mem fun hx _ h => ⟨h, hend _ hx⟩, fun g hg => ⟨?_, fun he => absurd he (hend g hg)⟩⟩
  · rw [← List.length_map (f := Gap.num), hnum, List.length_map]
    exact hlen
  · obtain ⟨k, hk, he⟩ := List.mem_map.mp (hnum ▸ List.mem_map_of_mem hg)
    exact he ▸ (ha k hk).1

/-! ### The tracks' lists (R48, R134, R141) -/

theorem textLists_iff {t : TextTrack} : (Track.text t).listsOk = true ↔ t.cues.Pairwise fun x y => x.startF ≤ y.startF :=
  decide_eq_true_iff

theorem descLists_iff {t : DescTrack} : (Track.desc t).listsOk = true ↔
    t.pending.Pairwise (fun x y => x.d ≤ y.d) ∧ t.live.length ≤ Config.clipsPerTrack := by
  simp only [Track.listsOk, Bool.and_eq_true, decide_eq_true_iff]

/-- What an insertion behind every entry of no greater key does to a list. -/
theorem inserted {α : Type} (key : α → Nat) (c : α) {ins : List α → List α} (h0 : ins [] = [c])
    (h1 : ∀ x xs, ins (x :: xs) = if key x ≤ key c then x :: ins xs else c :: x :: xs) (l : List α) :
    ∃ pre post, l = pre ++ post ∧ ins l = pre ++ c :: post ∧ (∀ x ∈ pre, key x ≤ key c) ∧
      ∀ x, post.head? = some x → key c < key x := by
  induction l with
  | nil => exact ⟨[], [], rfl, h0, fun _ h => absurd h List.not_mem_nil, fun _ h => by cases h⟩
  | cons x xs ih =>
    by_cases hx : key x ≤ key c
    · obtain ⟨pre, post, hl, hins, hpre, hpost⟩ := ih
      exact ⟨x :: pre, post, congrArg _ hl, (h1 x xs).trans ((if_pos hx).trans (congrArg _ hins)),
        List.forall_mem_cons.mpr ⟨hx, hpre⟩, hpost⟩
    · exact ⟨[], x :: xs, rfl, (h1 x xs).trans (if_neg hx), fun _ h => absurd h List.not_mem_nil,
        fun y hy => Option.some.inj hy ▸ Nat.lt_of_not_le hx⟩

/-- An ordered list split by a key, with an entry of that key between the parts. -/
theorem ordered_between {α : Type} {key : α → Nat} {c : α} {pre post : List α} (hpre : ∀ x ∈ pre, key x ≤ key c)
    (hpost : ∀ x, post.head? = some x → key c < key x) (h : (pre ++ post).Pairwise fun x y => key x ≤ key y) :
    (∀ x ∈ post, key c < key x) ∧ (pre ++ c :: post).Pairwise fun x y => key x ≤ key y := by
  obtain ⟨hl, hr, hlr⟩ := List.pairwise_append.mp h
  have hall : ∀ x ∈ post, key c < key x := by
    cases post with
    | nil => exact fun _ h => absurd h List.not_mem_nil
    | cons y ys => exact List.forall_mem_cons.mpr ⟨hpost y rfl,
        fun x hx => (hpost y rfl).trans_le ((List.pairwise_cons.mp hr).1 x hx)⟩
  exact ⟨hall, List.pairwise_append.mpr ⟨hl, List.pairwise_cons.mpr ⟨fun x hx => (hall x hx).le, hr⟩,
    fun x hx => List.forall_mem_cons.mpr ⟨hpre x hx, hlr x hx⟩⟩⟩

theorem mem_between {α : Type} {c x : α} {pre post : List α} (h : x ∈ pre ++ c :: post) : x = c ∨ x ∈ pre ++ post := by
  rcases List.mem_append.mp h with h | h
  · exact .inr (List.mem_append_left _ h)
  · exact (List.mem_cons.mp h).imp_right (List.mem_append_right _)

theorem cues_insertCue (c : Cue) (cs : List Cue) (h : cs.Pairwise fun x y => x.startF ≤ y.startF) :
    (insertCue c cs).Pairwise (fun x y => x.startF ≤ y.startF) ∧ ∀ x ∈ insertCue c cs, x = c ∨ x ∈ cs := by
  obtain ⟨pre, post, rfl, hins, hpre, hpost⟩ := inserted Cue.startF c (ins := insertCue c) rfl (fun _ _ => rfl) cs
  rw [hins]
  exact ⟨(ordered_between hpre hpost h).2, fun _ => mem_between⟩

theorem clips_insertClip (c : Clip) (cs : List Clip) (h : cs.Pairwise fun x y => x.d ≤ y.d) :
    (insertClip c cs).Pairwise (fun x y => x.d ≤ y.d) ∧ (∀ x ∈ insertClip c cs, x = c ∨ x ∈ cs) ∧
      (insertClip c cs).length = cs.length + 1 := by
  obtain ⟨pre, post, rfl, hins, hpre, hpost⟩ := inserted Clip.d c (ins := insertClip c) rfl (fun _ _ => rfl) cs
  rw [hins]
  exact ⟨(ordered_between hpre hpost h).2, fun _ => mem_between, by rw [List.length_append, List.length_append]; rfl⟩

theorem insertClip_listsOk {t : DescTrack} (h : (Track.desc t).listsOk = true)
    (hl : t.live.length < Config.clipsPerTrack) (c : Clip) :
    (Track.desc { t with pending := insertClip c t.pending }).listsOk = true := by
  obtain ⟨hord, -, hlen⟩ := clips_insertClip c t.pending (descLists_iff.mp h).1
  refine descLists_iff.mpr ⟨hord, ?_⟩
  rw [DescTrack.live, List.length_append] at hl ⊢
  rw [hlen, Nat.add_right_comm]
  exact hl

theorem bare_listsOk {x : Track} (h : x.bare) : x.listsOk = true := by
  cases x with
  | text t => exact textLists_iff.mpr (h ▸ List.Pairwise.nil)
  | desc t =>
    refine descLists_iff.mpr ⟨h.1 ▸ List.Pairwise.nil, ?_⟩
    rw [DescTrack.live, h.1, h.2]
    exact Nat.zero_le _

/-- Every track's lists are in order. -/
def Job.TracksListed (b : Job) : Prop := ∀ i x, b.track i = some x → x.listsOk = true

theorem Job.TracksListed.setTrack {b : Job} (h : b.TracksListed) {i : Fin 16} {x : Track} (hx : x.listsOk = true) :
    (b.setTrack i x).TracksListed := by
  intro k y hy
  by_cases hk : k = i
  · rw [hk, track_setTrack_self] at hy
    exact Option.some.inj hy ▸ hx
  · rw [track_setTrack_ne b x hk] at hy
    exact h k y hy

/-! ### All lists of a job -/

/-- The latch and the lists of a job are in order. -/
def Job.Listed (b : Job) : Prop :=
  b.latch.length ≤ Config.latchSize ∧ GapsOrdered b.gaps b.gd.nextGap b.gd.holdsGap ∧ b.TracksListed

theorem listsOk_iff {b : Job} : b.listsOk = true ↔ b.Listed := by
  have ht : (trackNumbers.all fun i => (b.track i).all Track.listsOk) = true ↔ b.TracksListed := by
    simp only [List.all_eq_true, mem_trackNumbers, forall_const, Option.all_eq_true, Job.TracksListed]
  rw [Job.listsOk, Bool.and_eq_true, Bool.and_eq_true, decide_eq_true_iff, gapListOk_iff, ht, and_assoc, Job.Listed]

theorem listed_work {b c : Job} (h : b.Work c) (hb : b.Listed) : c.Listed := by
  obtain ⟨hl, hg, ht⟩ := id hb
  cases h with
  | gapOpens hlen hheld hd hnum hn =>
    rw [hheld] at hg
    refine ⟨hl, ?_, ht⟩
    rw [hd, hn]
    exact hg.opens hlen hnum
  | gapCloses e hn => exact ⟨hl, hn ▸ hg.closes e _, ht⟩
  | detects hn hd => exact ⟨hl, ⟨hg.1, hg.2.1, fun g hm => ⟨hn ▸ (hg.2.2 g hm).1, fun he => hd ((hg.2.2 g hm).2 he)⟩⟩, ht⟩
  | gapsLeave hs => exact ⟨hl, hg.sublist hs, ht⟩
  | @cuesLeave i t cs hi hs =>
    have hp : (t.cues.map Cue.content).Pairwise fun x y => x.startF ≤ y.startF :=
      List.pairwise_map.mpr (textLists_iff.mp (ht i _ (Job.track_of_text? hi)))
    have hq := hp.sublist hs
    rw [List.pairwise_map] at hq
    exact ⟨hl, hg, ht.setTrack (textLists_iff.mpr hq)⟩
  | clipsLeave hi hp hlen =>
    obtain ⟨hord, hle⟩ := descLists_iff.mp (ht _ _ (Job.track_of_desc? hi))
    exact ⟨hl, hg, ht.setTrack (descLists_iff.mpr ⟨hord.sublist hp, hlen.trans hle⟩)⟩
  | cueConverts _ hi => exact ⟨hl, hg, Job.TracksListed.setTrack ht
      (textLists_iff.mpr (cues_insertCue _ _ (textLists_iff.mp (ht _ _ (Job.track_of_text? hi)))).1)⟩
  | clipConverts _ hi hlen c =>
    exact ⟨hl, hg, Job.TracksListed.setTrack ht (insertClip_listsOk (ht _ _ (Job.track_of_desc? hi)) hlen c)⟩
  | _ => exact hb

/-- R172 asks for the order of every list. -/
theorem Job.RestoredWithin.listed {x : Limits} {b : Job} (h : b.RestoredWithin x) : b.Listed := by
  obtain ⟨hf, -, ⟨-, -, -, -, -, hopen⟩, ⟨hlen, hp, hg⟩, ⟨_, -, hcues⟩, _, -, hclips⟩ := h.facts
  have hgaps : GapsOrdered b.gaps b.gd.nextGap b.gd.holdsGap := by
    have hmarks : ∀ x y : Gap, ((∃ e, x.endS = some e ∧ e ≤ y.start) ∧ x.start < y.start ∧ x.num < y.num) →
        x.num < y.num ∧ x.endS ≠ none := by
      rintro x y ⟨⟨e, he, -⟩, -, hlt⟩
      exact ⟨hlt, he ▸ Option.some_ne_none e⟩
    refine ⟨hlen, hp.imp (hmarks _ _), fun g hm => ⟨(hg g hm).1, fun he => ?_⟩⟩
    have hlast : b.gaps.getLast? = some g := by
      obtain ⟨l, r, hlr⟩ := List.append_of_mem hm
      rw [hlr] at hp ⊢
      cases r with
      | nil => exact List.getLast?_concat
      | cons k r =>
        have hk := (hmarks _ _ ((List.pairwise_cons.mp (List.pairwise_append.mp hp).2.1).1 k List.mem_cons_self)).2
        exact absurd he hk
    obtain ⟨hrec, hst⟩ := hopen.mp ⟨g, hlast, he⟩
    rw [Detector.holdsGap, hrec]
    rcases hst with hst | hst <;> rw [hst] <;> rfl
  refine ⟨hf.latch ▸ Nat.zero_le _, hgaps, fun i y hi => ?_⟩
  cases y with
  | text t =>
    obtain ⟨-, hord, -⟩ := hcues i t (by rw [Job.text?, hi])
    exact textLists_iff.mpr (hord.imp fun h => h.elim Nat.le_of_lt fun h => h.1.le)
  | desc t =>
    obtain ⟨-, hlive, hord, -⟩ := hclips i t (by rw [Job.desc?, hi])
    refine descLists_iff.mpr ⟨hord.imp fun h => h.elim Nat.le_of_lt fun h => h.1.le, ?_⟩
    rw [DescTrack.live, List.length_append]
    exact hlive

theorem listed_kept : JobKept Job.Listed where
  move h hb := by
    obtain ⟨hl, hg, ht⟩ := id hb
    cases h with
    | work h => exact listed_work h hb
    | latch h => exact ⟨h, hg, ht⟩
    | starts => exact ⟨hl, ⟨Nat.zero_le _, .nil, fun g h => absurd h List.not_mem_nil⟩, ht⟩
    | defines i h => exact ⟨hl, hg, ht.setTrack (bare_listsOk h)⟩
    | _ => exact hb
  takesCue h hb := by
    obtain ⟨hl, hg, ht⟩ := id hb
    cases h with
    | stored hi => exact ⟨hl, hg, ht.setTrack (textLists_iff.mpr
        (cues_insertCue _ _ (textLists_iff.mp (ht _ _ (Job.track_of_text? hi)))).1)⟩
    | held => exact hb
  takesClip h hb := by
    obtain ⟨hl, hg, ht⟩ := id hb
    cases h with
    | stored hi hlen c => exact ⟨hl, hg, ht.setTrack (insertClip_listsOk (ht _ _ (Job.track_of_desc? hi)) hlen c)⟩
    | held => exact hb
  opened f := by
    refine ⟨Nat.zero_le _, ⟨Nat.zero_le _, .nil, fun g h => absurd h List.not_mem_nil⟩, fun i x h => ?_⟩
    simp [openedJob, Job.track] at h
  restored := Job.RestoredWithin.listed

/-- Settles O6: marks, emissions and lists are those of each job, and every single change of a job keeps them. -/
theorem stepKeepsMarks : Obligations.StepKeepsMarks := by
  have hmarks : ∀ s : State, s.marksOk = true ↔ s.Jobs Job.Marked := fun s =>
    all_slots_iff (p := fun x => match x with | .job b => b.marksOk | _ => true) rfl (fun _ => rfl) fun _ => marksOk_iff
  have hemits : ∀ s : State, s.emissionsOk = true ↔ s.Jobs fun b => b.state.started = true → b.Emits := fun s =>
    all_slots_iff (p := fun x => match x with | .job b => b.emissionOk | _ => true) rfl (fun _ => rfl)
      fun _ => emissionOk_iff
  have hlists : ∀ s : State, s.listsOk = true ↔ s.Jobs Job.Listed := fun s =>
    all_slots_iff (p := fun x => match x with | .job b => b.listsOk | _ => true) rfl (fun _ => rfl) fun _ => listsOk_iff
  refine ⟨fun s t hs h => ?_, fun s t hm he h => ?_, fun s t hs h => ?_⟩
  · exact (hmarks t).mpr (marked_kept.step h ((hmarks s).mp hs))
  · have hboth := inProgress_kept.step h fun j b hb => ⟨(hmarks s).mp hm j b hb, (hemits s).mp he j b hb⟩
    exact (hemits t).mpr fun j b hb => (hboth j b hb).2
  · exact (hlists t).mpr (listed_kept.step h ((hlists s).mp hs))

end Sys2Proof.Machine
end

section
/-! PROOFS. The events of the lines: what the framer receives (R177, R178), breaks (R185, R186), device reset (R184),
RESET_N and initialisation (R187), RDY_IN and the transmitter's choice (R183), and the NOTEs that end an event (R191). -/

namespace Sys2Proof.Machine

-- No section variable stands here: the option has Lean elaborate one proof after the other (see the byte facts above).
set_option deprecated.oldSectionVars true

/-! ### Events of the lines (R175, R187) -/

/-- While the events of the lines are seen, an event acts at once. -/
theorem running_of_listening {s : State} (h : s.listening) (f : State → State) : s.running f = f s :=
  running_of_run h.1 h.2

theorem reset_slot (j : Fin 8) : State.reset.slot j = .free := resetIsPowerOnState.1 j

theorem detached_wire (x : Option Tx) : (x.map Tx.detached).map Tx.wire = x.map Tx.wire := by cases x <;> rfl

/-- Settles O53: a short break touches framer and line alone; a long break is a device reset, or none. -/
theorem breaksHuntAndReset : Obligations.BreaksHuntAndReset := by
  intro s h
  refine ⟨fun hrx => ?_, fun hrx => ?_, fun hrx => ⟨_, congrArg Host.Outcome.next ((running_of_listening h _).trans
    (if_neg hrx)), reset_slot, rfl, rfl, rfl, rfl, rfl, rfl, rfl, rfl, rfl, ?_, detached_wire s.tx⟩⟩
  · refine congrArg Host.Outcome.next ((running_of_listening h _).trans ?_)
    cases hs : s.rx with
    | silence t => exact absurd hs (hrx t)
    | _ => rfl
  · exact congrArg Host.Outcome.next ((running_of_listening h _).trans (if_pos hrx))
  · exact congrArg (· == Phase.run && true) h.1

/-- Settles O54: each phase's events by the test of the phase that they begin with. -/
theorem resetLinePhases : Obligations.ResetLinePhases := by
  intro s
  have hready : ∀ u : State, u.rdyOut = true ↔ u.phase = .run ∧ u.inbound.length + 2 ≤ 32 := fun u => by
    rw [State.rdyOut, Bool.and_eq_true, beq_iff_eq, decide_eq_true_iff]
    rfl
  refine ⟨hready s, ⟨_, rfl, rfl, rfl, rfl⟩, fun h => ⟨_, congrArg Host.Outcome.next (if_pos h), rfl, reset_slot, rfl,
    rfl, rfl, rfl, rfl, rfl, rfl, rfl, rfl, rfl⟩, fun h => ⟨congrArg Host.Outcome.next (if_pos h),
    fun hlen => (hready _).mpr ⟨rfl, Nat.add_le_add_right hlen 2⟩⟩, fun h => ?_⟩
  have hidle : ∀ f : State → State, Host.Outcome.next (s.running f) = (.next s : Answer) :=
    fun f => congrArg Host.Outcome.next (running_of_not_run h)
  exact ⟨fun k r => (exec_requestOf k r s).trans (hidle _), fun _ _ => hidle _, fun _ _ => hidle _, hidle _, hidle _,
    hidle _, hidle _, hidle _⟩

/-! ### The framer (R177, R178) -/

theorem character_of_high {s : State} (h : s.listening) (hrx : s.rx = .high) (b : Byte) :
    exec (.characterReceived b true) s = .next (s.byteIn b) :=
  congrArg Host.Outcome.next ((running_of_listening h _).trans (if_pos hrx))

/-- What the framer does with a byte its own state alone decides. -/
theorem with_framer {s : State} {f : Framer} (h : s.framer = f) : ({ s with framer := f } : State) = s := h ▸ rfl

/-- The two bytes of a word, high byte first (R176). -/
theorem beBytes_append (a b : Byte) : beBytes 2 (a ++ b).toNat = [a, b] := by
  have happ : (a ++ b).toNat = a.toNat * 256 + b.toNat := by
    rw [BitVec.toNat_append, ← Nat.shiftLeft_add_eq_or_of_lt b.isLt, Nat.shiftLeft_eq]
  have hhigh : (a.toNat * 256 + b.toNat) / 256 ^ 1 = a.toNat := by
    rw [Nat.pow_one, Nat.add_comm, Nat.add_mul_div_right _ _ (by decide), Nat.div_eq_of_lt b.isLt, Nat.zero_add]
  rw [happ, beBytes, beBytes, beBytes, hhigh, BitVec.ofNat_toNat, BitVec.setWidth_eq]
  congr 2
  exact BitVec.eq_of_toNat_eq ((BitVec.toNat_ofNat _ _).trans (by
    rw [Nat.pow_zero, Nat.div_one]
    exact Nat.mul_add_mod_of_lt b.isLt))

theorem checkBytes_eq_iff (bs : List Byte) (a b : Byte) : checkBytes bs = [a, b] ↔ crc bs = a ++ b := by
  rw [← beBytes_append a b]
  refine ⟨fun h => BitVec.eq_of_toNat_eq ?_, fun h => congrArg (fun c : Word16 => beBytes 2 c.toNat) h⟩
  have hval := congrArg natOfBytes h
  rwa [checkBytes, natOfBytes_beBytes 2 _ (BitVec.isLt _), natOfBytes_beBytes 2 _ (BitVec.isLt _)] at hval

/-- Settles O51: the framer's table, state by state. -/
theorem characterAdvancesFramer : Obligations.CharacterAdvancesFramer := by
  intro s b h
  refine ⟨fun hrx stop => congrArg Host.Outcome.next ((running_of_listening h _).trans (if_neg hrx)), fun hrx => ?_⟩
  have hnext : ∀ {f u}, s.framer = f → ({ s with framer := f } : State).byteIn b = u →
      exec (.characterReceived b true) s = .next u := fun hf hu =>
    (character_of_high h hrx b).trans (congrArg _ ((congrArg (State.byteIn b) (with_framer hf)).symm.trans hu))
  refine ⟨congrArg Host.Outcome.next ((running_of_listening h _).trans (if_pos hrx)),
    fun hf => hnext hf (if_congr Iff.rfl rfl (with_framer hf)),
    fun got hf => ⟨fun hlen => hnext hf (if_pos hlen), fun hlen => hnext hf ?_⟩,
    fun head len got hf => hnext hf (apply_ite (fun x => ({ s with framer := x } : State)) _ _ _).symm,
    fun head got hf => hnext hf rfl, fun head got a hf => hnext hf (if_congr (checkBytes_eq_iff _ a b) rfl rfl)⟩
  have hlen' : field (got ++ [b]) 5 2 = natOfBytes ((got ++ [b]).drop 5) := by
    rw [field, List.take_of_length_le]
    rw [List.length_drop, List.length_append, hlen]
    exact Nat.le_refl 2
  refine (if_neg (hlen ▸ Nat.lt_irrefl 6)).trans ?_
  rw [State.headerDone, hlen']
  exact if_congr Iff.rfl rfl (apply_ite (fun x => ({ s with framer := x } : State)) _ _ _)

end Sys2Proof.Machine
end

section
/-! PROOFS. Link errors (R178, R185, R198), the transmitter (R183), dispatch (R180) and device reset (R184), and the
NOTEs that end an event (R191). -/

namespace Sys2Proof.Machine

-- No section variable stands here: the option has Lean elaborate one proof after the other (see the byte facts above).
set_option deprecated.oldSectionVars true

/-! ### Counts (R188, R192) -/

/-- One report raises one count, up to 255, and makes a NOTE pending where an enabled count leaves 0. -/
theorem report_counts (x : Notices) (base : Nat) {i n : Nat} (h : i < x.counts.length) :
    (x.report base i n).counts.length = x.counts.length ∧
    (x.report base i n).counts.getD i 0 = min 255 (x.counts.getD i 0 + n) ∧
    (∀ k, k ≠ i → (x.report base i n).counts.getD k 0 = x.counts.getD k 0) ∧
    ((x.report base i n).pending = true ↔
      x.pending = true ∨ x.counts.getD i 0 = 0 ∧ 1 ≤ n ∧ x.enables.getLsbD (base + i) = true) := by
  refine ⟨List.length_set, ?_, fun k hk => ?_, ?_⟩
  · exact (List.getD_eq_getElem _ _ (by rwa [Notices.report, List.length_set])).trans (List.getElem_set_self _)
  · rw [Notices.report, List.getD_eq_getElem?_getD, List.getElem?_set_ne hk.symm, ← List.getD_eq_getElem?_getD]
  · rw [Notices.report]
    generalize x.counts.getD i 0 = old
    simp only [Bool.or_eq_true, Bool.and_eq_true, beq_iff_eq, bne_iff_ne, and_assoc]
    refine or_congr_right (and_congr_right fun h0 => and_congr_left fun _ => ?_)
    rw [h0, Nat.zero_add]
    exact (Nat.pos_iff_ne_zero.symm.trans lt_min_iff).trans (and_iff_right (by decide))

/-! ### Link errors (R178, R185, R198) -/

/-- Settles O52: timeouts, framing errors and the end of a break by the line's state; an alert is one report of its
count. -/
theorem linkErrorsAbandon : Obligations.LinkErrorsAbandon := by
  refine ⟨fun s h => ?_, fun s p hp hlen => ?_⟩
  · have hnext : ∀ {f : State → State} {u : State}, f s = u → (.next (s.running f) : Answer) = .next u :=
      fun hu => congrArg Host.Outcome.next ((running_of_listening h _).trans hu)
    refine ⟨fun hf => hnext (if_neg fun hb => hb.1 hf), fun hf hrx => hnext (if_pos ⟨hf, hrx⟩),
      fun hrx hf => hnext (if_pos ⟨hrx, hf⟩), fun hf => hnext (if_neg fun hb => hb.2 hf), fun t hrx => hnext (if_neg ?_)⟩
    rintro ⟨hlow, -⟩
    cases hlow.symm.trans hrx
  · obtain ⟨hindex, hcode, hk⟩ : p.2 - 24 = p.1.index ∧ alertBase + p.1.index = p.2 ∧ p.1.index < 6 := by
      obtain ⟨k, -, rfl⟩ := List.mem_map.mp (show p ∈ [Alert.framing, .length, .check, .timeout, .overrun,
        .poolExhausted].map fun k => (k, alertBase + k.index) from hp)
      exact ⟨Nat.add_sub_cancel_left _ _, rfl, by cases k <;> decide⟩
    obtain ⟨h1, h2, h3, h4⟩ := report_counts s.device alertBase (n := 1) (hlen ▸ hk)
    rw [hcode] at h4
    rw [hindex]
    exact ⟨h1.trans hlen, h2, h3, h4.trans (or_congr_right (and_congr_right fun _ => and_iff_right le_rfl)), rfl, rfl⟩

/-! ### The transmitter (R183) -/

/-- The first entry that meets a condition is the library's, and so is the store without it. -/
theorem takeFirst_eq (p : OutEntry → Bool) (l : List OutEntry) :
    takeFirst p l = (l.find? p).map fun e => (e, l.eraseP p) := by
  induction l with
  | nil => rfl
  | cons a l ih =>
    cases hp : p a with
    | true => exact (if_pos hp).trans (by rw [List.find?_cons_of_pos hp, List.eraseP_cons_of_pos hp]; rfl)
    | false =>
      have hn : ¬p a = true := Bool.not_eq_true _ ▸ hp
      refine (if_neg hn).trans ?_
      rw [List.find?_cons_of_neg hn, List.eraseP_cons_of_neg hn, ih]
      cases l.find? p <;> rfl

/-- What stands before the first entry that meets a condition does not meet it. -/
theorem takeFirst_splits {p : OutEntry → Bool} {l : List OutEntry} {e : OutEntry} {rest : List OutEntry}
    {Q : List OutEntry → Prop} (h : takeFirst p l = some (e, rest))
    (hQ : ∀ pre, p e = true → (∀ x ∈ pre, ¬p x = true) → Q pre) :
    ∃ pre post, l = pre ++ e :: post ∧ rest = pre ++ post ∧ Q pre := by
  rw [takeFirst_eq, Option.map_eq_some_iff] at h
  obtain ⟨a, hfind, he⟩ := h
  cases he
  obtain ⟨hp, pre, post, rfl, hpre⟩ := List.find?_eq_some_iff_append.mp hfind
  have hpre' : ∀ x ∈ pre, ¬p x = true := fun x hx => Bool.eq_false_iff.mp ((Bool.not_eq_true' _).mp (hpre x hx))
  exact ⟨pre, post, rfl, by rw [List.eraseP_append_right _ hpre', List.eraseP_cons_of_pos hp], hQ pre hp hpre'⟩

theorem takeFirst_eq_none {p : OutEntry → Bool} {l : List OutEntry} :
    takeFirst p l = none ↔ ∀ x ∈ l, ¬p x = true := by
  rw [takeFirst_eq, Option.map_eq_none_iff, List.find?_eq_none]

/-- The transmitter's choice where no finished reply is the oldest. -/
noncomputable def otherEntry (store : List OutEntry) : Option (OutEntry × List OutEntry) :=
  (takeFirst (fun e => e.cls == .alert) store).or (takeFirst (fun e => e.cls != .reply) store)

/-- The choice is the oldest reply when that is finished, and otherwise no reply. -/
theorem chooseEntry_cases (store : List OutEntry) :
    (∃ e rest, takeFirst (fun e => e.cls == .reply) store = some (e, rest) ∧ e.unfinished = false ∧
      chooseEntry store = some (e, rest)) ∨
    ((∀ x, store.find? (fun e => e.cls == .reply) = some x → x.unfinished = true) ∧
      chooseEntry store = otherEntry store) := by
  have hc : chooseEntry store = match takeFirst (fun e => e.cls == .reply) store with
    | some (e, rest) => if e.unfinished then otherEntry store else some (e, rest)
    | none => otherEntry store := by
    unfold chooseEntry otherEntry
    cases takeFirst (fun e => e.cls == .alert) store <;> rfl
  rw [hc, takeFirst_eq]
  cases hr : store.find? fun e => e.cls == .reply with
  | none => exact .inr ⟨fun x hx => (by cases hx), rfl⟩
  | some e =>
    cases hu : e.unfinished with
    | false => exact .inl ⟨e, _, rfl, hu, if_neg (hu ▸ Bool.false_ne_true)⟩
    | true => exact .inr ⟨fun x hx => Option.some.inj hx ▸ hu, if_pos hu⟩

theorem otherEntry_eq_none {store : List OutEntry} : otherEntry store = none ↔ ∀ e ∈ store, e.cls = .reply := by
  have hnone : takeFirst (fun e => e.cls != .reply) store = none ↔ ∀ e ∈ store, e.cls = .reply := by
    simp only [takeFirst_eq_none, bne_iff_ne, not_not]
  rw [otherEntry, Option.or_eq_none_iff, hnone, takeFirst_eq_none]
  refine and_iff_right_of_imp fun hall x hx ha => ?_
  cases (hall x hx).symm.trans (eq_of_beq ha)

theorem transmitBegin_idle {s : State} (h : s.tx ≠ none ∨ s.rdyIn = false ∨ chooseEntry s.store = none) :
    s.transmitBegin = s := by
  unfold State.transmitBegin
  rcases h with h | h | h
  · rw [Option.isNone_eq_false_iff.mpr (Option.isSome_iff_ne_none.mpr h)]
    rfl
  · rw [h, Bool.and_false]
    rfl
  · rw [h]
    exact ite_self _

theorem transmitBegin_begins {s : State} {e : OutEntry} {rest : List OutEntry} (htx : s.tx = none)
    (hrdy : s.rdyIn = true) (hrun : s.phase = .run) (hc : chooseEntry s.store = some (e, rest)) :
    s.transmitBegin = { s with store := rest, tx := some ⟨e, true, e.record.wire⟩ } := by
  unfold State.transmitBegin
  rw [htx, hrdy, hrun, hc]
  rfl

/-- Settles O55: the choice by the oldest reply, the oldest alert and the oldest other record. -/
theorem readyLineStartsTransmitter : Obligations.ReadyLineStartsTransmitter := by
  refine ⟨fun s h => ?_, fun store => ⟨?_, fun e rest h => ?_⟩⟩
  · have hnext : ∀ {l u}, ({ s with rdyIn := l } : State).transmitBegin = u → exec (.rdyInChange l) s = .next u :=
      fun {l _} hu => congrArg Host.Outcome.next ((congrArg (fun v : State =>
        ({ v with rdyIn := l } : State).transmitBegin) (flush_of_not_due h.2)).trans hu)
    exact ⟨hnext (transmitBegin_idle (.inr (.inl rfl))), fun htx => hnext (transmitBegin_idle (.inl htx)),
      fun _ hc => hnext (transmitBegin_idle (.inr (.inr hc))),
      fun e rest htx hc => hnext (transmitBegin_begins htx rfl h.1 hc)⟩
  · rcases chooseEntry_cases store with ⟨e, rest, htake, hu, hc⟩ | ⟨hheld, hc⟩
    · rw [takeFirst_eq, Option.map_eq_some_iff] at htake
      obtain ⟨x, hx, he⟩ := htake
      cases he
      refine iff_of_false (hc ▸ Option.some_ne_none _) fun hn => ?_
      cases hu.symm.trans (hn.1 _ hx)
    · exact hc ▸ otherEntry_eq_none.trans (and_iff_right hheld).symm
  · rcases chooseEntry_cases store with ⟨e', rest', htake, hu, hc⟩ | ⟨hheld, hc⟩
    · cases hc.symm.trans h
      exact takeFirst_splits htake fun pre he hpre => .inl ⟨eq_of_beq he, hu, fun x hx hx' => hpre x hx (beq_iff_eq.mpr hx')⟩
    · rcases Option.or_eq_some_iff.mp (hc.symm.trans h) with ha | ⟨ha, ho⟩
      · exact takeFirst_splits ha fun pre he hpre =>
          .inr (.inl ⟨hheld, eq_of_beq he, fun x hx hx' => hpre x hx (beq_iff_eq.mpr hx')⟩)
      · exact takeFirst_splits ho fun pre he hpre => .inr (.inr ⟨hheld, bne_iff_ne.mp he,
          fun x hx hx' => takeFirst_eq_none.mp ha x hx (beq_iff_eq.mpr hx'),
          fun x hx => not_not.mp fun hx' => hpre x hx (bne_iff_ne.mpr hx')⟩)

end Sys2Proof.Machine
end

section
/-! PROOFS. The NOTEs that end an event (R191), the transmitter that follows them (R183), dispatch (R180) and device
reset (R184). -/

namespace Sys2Proof.Machine

-- No section variable stands here: the option has Lean elaborate one proof after the other (see the byte facts above).
set_option deprecated.oldSectionVars true

/-! ### The NOTEs that end an event (R191) -/

/-- A NOTE of a job or of the device (11.2). -/
def OutEntry.IsNote (e : OutEntry) : Prop := e.record.kind = 0x81#8 ∧ (e.cls = .note ∨ e.cls = .alert)

/-- A claimant's notices but for its NOTE. -/
noncomputable def Notices.noNote (x : Notices) : Notices := { x with pending := false, wait := false, number := 0 }

noncomputable def Slot.noNote : Slot → Slot
  | .job b => .job { b with notices := b.notices.noNote }
  | x => x

/-- A part but for its NOTEs and the store. -/
noncomputable def State.noNotes (s : State) : State :=
  { s with slots := s.slots.map Slot.noNote, store := [], device := s.device.noNote }

/-- What the placing of NOTEs may change of a part: NOTEs join the store, and the claimants' NOTEs no longer pend. -/
def State.NotesOnly (s t : State) : Prop :=
  t.noNotes = s.noNotes ∧ ∃ notes : List OutEntry, t.store = s.store ++ notes ∧ ∀ e ∈ notes, e.IsNote

theorem State.NotesOnly.of_eq {s t : State} (h : t.noNotes = s.noNotes) (hs : t.store = s.store) : s.NotesOnly t :=
  ⟨h, [], hs.trans (List.append_nil _).symm, fun _ h => absurd h List.not_mem_nil⟩

theorem State.NotesOnly.trans {s t u : State} (h : s.NotesOnly t) (k : t.NotesOnly u) : s.NotesOnly u := by
  obtain ⟨hf, ns, hns, hn⟩ := h
  obtain ⟨kf, ms, hms, hm⟩ := k
  exact ⟨kf.trans hf, ns ++ ms, by rw [hms, hns, List.append_assoc],
    fun e he => (List.mem_append.mp he).elim (hn e) (hm e)⟩

theorem notesOnly_setJob {s : State} {j : Fin 8} {b : Job} {n : Notices} (hb : s.slot j = .job b)
    (hn : n.noNote = b.notices.noNote) : s.NotesOnly (s.setJob j { b with notices := n }) := by
  refine .of_eq (congrArg (fun v => { s.noNotes with slots := v }) ?_) rfl
  have hj : (s.slots.map Slot.noNote)[j.val]'j.isLt = .job { b with notices := n.noNote } := by
    rw [Vector.getElem_map, hn]
    exact congrArg Slot.noNote hb
  exact (Vector.map_set ..).trans ((congrArg (fun x => (s.slots.map Slot.noNote).set j.val x) hj.symm).trans
    (Vector.set_getElem_self _))

theorem notesOnly_place {s : State} {e : OutEntry} (he : e.IsNote) : s.NotesOnly (s.place e) :=
  ⟨rfl, [e], rfl, fun _ hx => List.mem_singleton.mp hx ▸ he⟩

theorem notesOnly_device {s : State} {n : Notices} (hn : n.noNote = s.device.noNote) :
    s.NotesOnly { s with device := n } := .of_eq (congrArg (fun v => { s.noNotes with device := v }) hn) rfl

theorem noteJob_notesOnly (s : State) (j : Fin 8) : s.NotesOnly (s.noteJob j) := by
  unfold State.noteJob State.placeJobNote
  cases hb : s.job? j with
  | none => exact .of_eq rfl rfl
  | some b =>
    have hslot := slot_of_job? s j hb
    refine iteInduction (fun _ => iteInduction (fun _ => iteInduction (fun _ => ?_) fun _ => ?_) fun _ => ?_)
      fun _ => .of_eq rfl rfl
    · exact notesOnly_setJob hslot rfl
    · exact (notesOnly_place ⟨rfl, .inl rfl⟩).trans (notesOnly_setJob hslot rfl)
    · exact notesOnly_setJob hslot rfl

theorem noteDevice_notesOnly (s : State) : s.NotesOnly s.noteDevice := by
  refine iteInduction (fun _ => iteInduction (fun _ => iteInduction (fun _ => ?_) fun _ => ?_) fun _ => ?_)
    fun _ => .of_eq rfl rfl
  · exact notesOnly_device rfl
  · exact (notesOnly_place ⟨rfl, .inr rfl⟩).trans (notesOnly_device rfl)
  · exact notesOnly_device rfl

theorem placeNotes_notesOnly (s : State) : s.NotesOnly s.placeNotes :=
  placeNotes_keeps (P := s.NotesOnly) (fun u j hu => hu.trans (noteJob_notesOnly u j))
    (fun u hu => hu.trans (noteDevice_notesOnly u)) s (.of_eq rfl rfl)

/-! ### The transmitter that follows (R183) -/

theorem mem_store_of_choice {store rest : List OutEntry} {e : OutEntry} (h : chooseEntry store = some (e, rest))
    (x : OutEntry) : x ∈ store ↔ x = e ∨ x ∈ rest := by
  obtain ⟨pre, post, hstore, hrest, -⟩ := (readyLineStartsTransmitter.2 store).2 e rest h
  rw [hstore, hrest]
  exact List.perm_middle.mem_iff.trans List.mem_cons

theorem transmitBegin_cases (s : State) : s.transmitBegin = s ∨ ∃ e rest, s.tx = none ∧
    chooseEntry s.store = some (e, rest) ∧
    s.transmitBegin = { s with store := rest, tx := some ⟨e, true, e.record.wire⟩ } := by
  refine (em _).elim (fun h => ?_) fun h => .inl (if_neg h)
  obtain ⟨h12, h3⟩ := Bool.and_eq_true_iff.mp h
  obtain ⟨h1, h2⟩ := Bool.and_eq_true_iff.mp h12
  cases hc : chooseEntry s.store with
  | none => exact .inl (transmitBegin_idle (.inr (.inr hc)))
  | some r => exact .inr ⟨r.1, r.2, Option.isNone_iff_eq_none.mp h1, rfl,
      transmitBegin_begins (Option.isNone_iff_eq_none.mp h1) h2 (eq_of_beq h3) hc⟩

/-- What the transmitter begins with is an entry of the store, and the others stay. -/
theorem transmitBegin_entries (u : State) :
    { u.transmitBegin with store := u.store, tx := u.tx } = u ∧
    (∀ e ∈ u.store, e ∈ u.transmitBegin.store ∨ ∃ t, u.transmitBegin.tx = some t ∧ t.entry = e) ∧
    (∀ e ∈ u.transmitBegin.store, e ∈ u.store) ∧
    ∀ t, (u.tx = some t → u.transmitBegin.tx = some t) ∧
      (u.tx = none → u.transmitBegin.tx = some t → t.entry ∈ u.store ∧ t.holds = true ∧ t.wire = t.entry.record.wire) := by
  rcases transmitBegin_cases u with h | ⟨e, rest, hidle, hc, h⟩ <;> rw [h]
  · exact ⟨rfl, fun _ => .inl, fun _ => id, fun t => ⟨id, fun hn ht => by cases hn.symm.trans ht⟩⟩
  · have hmem := mem_store_of_choice hc
    exact ⟨rfl, fun x hx => ((hmem x).mp hx).symm.imp_right fun hxe => ⟨_, rfl, hxe.symm⟩,
      fun x hx => (hmem x).mpr (.inr hx), fun t => ⟨fun ht => (by cases hidle.symm.trans ht),
      fun _ ht => Option.some.inj ht ▸ ⟨(hmem e).mpr (.inl rfl), rfl, rfl⟩⟩⟩

/-- A slot that is another but for its NOTE. -/
theorem noNote_slots {x y : Slot} (h : y.noNote = x.noNote) :
    (x = .free → y = .free) ∧ (∀ a, x = .restoring a → y = .restoring a) ∧
      ∀ b, x = .job b → ∃ n : Notices, n.counts = b.notices.counts ∧ n.enables = b.notices.enables ∧
        y = .job { b with notices := n } := by
  refine ⟨fun hx => ?_, fun a hx => ?_, fun b hx => ?_⟩ <;> cases hx
  · cases y with
    | free => rfl
    | _ => cases h
  · cases y with
    | restoring a => exact h
    | _ => cases h
  · cases y with
    | job c =>
      have hj := Slot.job.inj h
      exact ⟨c.notices, (congrArg (fun d : Job => d.notices.counts) hj :), (congrArg (fun d : Job => d.notices.enables) hj :),
        congrArg Slot.job (congrArg (fun d : Job => { d with notices := c.notices }) hj :)⟩
    | _ => cases h

/-- Settles O18: NOTEs placed, then the transmitter idle or begun on an entry of the store. -/
theorem afterKeepsState : Obligations.AfterKeepsState := by
  intro s
  obtain ⟨hn, notes, hstore, hnotes⟩ := placeNotes_notesOnly s
  refine ⟨rfl, ?_⟩
  unfold State.after
  generalize s.placeNotes = u at hn hstore
  obtain ⟨hu, hkeep, hback, htx⟩ := transmitBegin_entries u
  have hf : { u.transmitBegin.noNotes with tx := u.tx } = s.noNotes := (congrArg State.noNotes hu :).trans hn
  have hmem : ∀ e ∈ u.store, e ∈ s.store ∨ e.IsNote := fun e he =>
    (List.mem_append.mp (hstore ▸ he)).imp_right (hnotes e)
  have hidle : u.tx = s.tx := (congrArg State.tx hf :)
  refine ⟨(congrArg State.pending hf :), (congrArg State.phase hf :), (congrArg State.rdyIn hf :), (congrArg State.rx hf :),
    (congrArg State.framer hf :), (congrArg State.inbound hf :), (congrArg State.lastClaimant hf :),
    (congrArg State.roomDue hf :), (congrArg State.abort hf :), (congrArg State.parkSerial hf :),
    (congrArg (fun v : State => v.device.counts) hf :), (congrArg (fun v : State => v.device.enables) hf :),
    fun j => noNote_slots ?_, fun e he => hkeep e (hstore ▸ List.mem_append_left _ he), fun e he => hmem e (hback e he),
    fun t => ⟨fun ht => (htx t).1 (hidle.trans ht), fun hs ht => ?_⟩⟩
  · have hj : (u.transmitBegin.slots.map Slot.noNote)[j.val]'j.isLt = (s.slots.map Slot.noNote)[j.val]'j.isLt :=
      (congrArg (fun v : State => v.slot j) hf :)
    rwa [Vector.getElem_map, Vector.getElem_map] at hj
  · exact ((htx t).2 (hidle.trans hs) ht).imp_left (hmem _)

end Sys2Proof.Machine
end

section
/-! PROOFS. Dispatch (R168, R179, R180) and device reset (R184). -/

namespace Sys2Proof.Machine

-- No section variable stands here: the option has Lean elaborate one proof after the other (see the byte facts above).
set_option deprecated.oldSectionVars true

theorem resets_iff (r : LinkRecord) : r.resets = true ↔ r.kind = 0x21#8 ∧ r.job = 0#8 ∧ r.body = [] := by
  rw [LinkRecord.resets, Bool.and_eq_true, Bool.and_eq_true, beq_iff_eq, beq_iff_eq, List.isEmpty_iff, and_assoc]
  exact Iff.rfl

/-- When dispatch may take a record (R180). -/
theorem mayTake_iff (s : State) (rec : LinkRecord) :
    let sent := match s.tx with | some t => if t.holds = true ∧ t.entry.cls = .reply then 1 else 0 | none => 0
    s.mayTake rec = true ↔ s.abort = none ∧ (rec.kind = 0x21#8 ∧ rec.job = 0#8 ∧ rec.body = [] ∨ 1 ≤ s.freeEntries ∧
      ((∀ e ∈ s.store, e.unfinished = false) ∨ (s.store.filter fun e => e.cls == .reply).length + sent < 8)) := by
  have hsent : (match s.tx with | some t => if t.holds && t.entry.cls == OutClass.reply then 1 else 0 | none => 0) =
      match s.tx with | some t => if t.holds = true ∧ t.entry.cls = OutClass.reply then 1 else 0 | none => 0 := by
    cases s.tx with
    | none => rfl
    | some t => exact if_congr (by rw [Bool.and_eq_true, beq_iff_eq]) rfl rfl
  dsimp only
  rw [← hsent, State.mayTake, Bool.and_eq_true, Option.isNone_iff_eq_none, Bool.or_eq_true, resets_iff,
    Bool.and_eq_true, decide_eq_true_iff, Bool.or_eq_true, Bool.not_eq_true', decide_eq_true_iff, State.parkUnfinished,
    List.any_eq_false]
  simp only [Bool.not_eq_true]
  exact Iff.rfl

/-- What NOTEs leave of the link. -/
theorem State.NotesOnly.link {s t : State} (h : s.NotesOnly t) : t.inbound = s.inbound ∧ t.tx = s.tx ∧
    t.abort = s.abort ∧ t.parkSerial = s.parkSerial ∧ t.rdyIn = s.rdyIn ∧ t.rx = s.rx ∧ t.phase = s.phase :=
  ⟨(congrArg State.inbound h.1 :), (congrArg State.tx h.1 :), (congrArg State.abort h.1 :),
    (congrArg State.parkSerial h.1 :), (congrArg State.rdyIn h.1 :), (congrArg State.rx h.1 :),
    (congrArg State.phase h.1 :)⟩

/-- NOTEs placed free no entry and finish no PARK reply. -/
theorem State.NotesOnly.mayTake {s t : State} (h : s.NotesOnly t) (r : LinkRecord) (ht : t.mayTake r = true) :
    s.mayTake r = true := by
  obtain ⟨-, htx, habort, -⟩ := h.link
  obtain ⟨-, notes, hstore, -⟩ := h
  have hsub : s.store.Sublist t.store := hstore ▸ List.sublist_append_left _ _
  have hfree : t.freeEntries ≤ s.freeEntries := by
    refine Nat.sub_le_sub_left ?_ _
    rw [State.used, State.used, htx]
    exact Nat.add_le_add_right hsub.length_le _
  obtain ⟨ha, hr⟩ := (mayTake_iff t r).mp ht
  rw [htx] at hr
  refine (mayTake_iff s r).mpr ⟨habort ▸ ha, hr.imp_right (And.imp (·.trans hfree) (Or.imp (fun hall e he =>
    hall e (hsub.subset he)) fun hlt => ?_))⟩
  exact (Nat.add_le_add_right (hsub.filter _).length_le _).trans_lt hlt

theorem drain_of_empty {s : State} (h : s.inbound = []) (n : Nat) : s.drain n = s := by
  cases n with
  | zero => rfl
  | succ n => rw [State.drain, h]

theorem drain_of_paused {s : State} {head : LinkRecord} {rest : List LinkRecord} (h : s.inbound = head :: rest)
    (ht : s.mayTake head = false) (n : Nat) : s.drain n = s := by
  cases n with
  | zero => rfl
  | succ n =>
    rw [State.drain, h]
    exact if_neg (ht ▸ Bool.false_ne_true)

theorem drain_of_taken {s : State} {head : LinkRecord} {rest : List LinkRecord} (h : s.inbound = head :: rest)
    (ht : s.mayTake head = true) (n : Nat) :
    s.drain (n + 1) = (handle head { s with inbound := rest }).placeNotes.drain n := by
  rw [State.drain, h]
  exact if_pos ht

theorem settle_eq (s : State) : s.settle = (s.placeNotes.drain s.placeNotes.inbound.length).transmitBegin := rfl

theorem settle_of_settled {s : State} (h : s.notesSettled = true) :
    s.settle = (s.drain s.inbound.length).transmitBegin := by
  rw [settle_eq, placeNotes_of_settled h]

/-- Behind a head record that may not be taken, an event's NOTEs and the transmitter are all that follows. -/
theorem settle_of_paused {s : State} {head : LinkRecord} {rest : List LinkRecord} (h : s.inbound = head :: rest)
    (ht : s.mayTake head = false) : s.settle = s.after := by
  have hn := placeNotes_notesOnly s
  rw [settle_eq, State.after]
  generalize s.placeNotes = u at hn
  exact congrArg State.transmitBegin (drain_of_paused (hn.link.1.trans h)
    (Bool.eq_false_iff.mpr fun h' => Bool.eq_false_iff.mp ht (hn.mayTake head h')) _)

/-- Settles O50: the tests of R180, and what waits behind a record that may not be taken. -/
theorem pausedDispatchKeepsRecord : Obligations.PausedDispatchKeepsRecord := by
  refine ⟨mayTake_iff, fun s n => ⟨settle_of_settled, fun h => drain_of_empty h n, fun head rest h =>
    ⟨fun ht => drain_of_paused h ht n, fun ht => drain_of_taken h ht n⟩⟩,
    fun s k r h => exec_requestOf_ready h k r, fun s k r head rest h hn hin ht => ?_⟩
  have hexec : exec (requestOf k r) s = .next (s.enqueue (requestRecord k.code r)).settle :=
    (exec_requestOf k r s).trans (congrArg _ (running_of_listening h _))
  rw [hexec]
  by_cases hlen : s.inbound.length < 32
  · rw [if_pos hlen, State.enqueue, if_pos (show s.inbound.length < Config.inboundSize from hlen)]
    have hin' : s.inbound ++ [requestRecord k.code r] = head :: (rest ++ [requestRecord k.code r]) := by rw [hin]; rfl
    rw [settle_of_paused (s := { s with inbound := _ }) hin' ht, State.after, placeNotes_of_settled
      (s := { s with inbound := s.inbound ++ [requestRecord k.code r] }) hn]
  · rw [if_neg hlen, State.enqueue, if_neg (show ¬s.inbound.length < Config.inboundSize from hlen),
      settle_of_paused (s := s.alert .overrun) hin ht]

theorem takeDrst_resets {r : LinkRecord} (hjob : r.job = 0#8) (hbody : r.body = []) (s : State) :
    takeDrst r s = s.deviceReset.reply r .ok (beBytes 2 s.parkSerial.toNat) := by
  rw [takeDrst, if_neg (not_not_intro hjob), hbody]
  rfl

/-- Settles O48: DRST is taken whatever stands in the store, and resets all but what its reply reports. -/
theorem drstResetsDevice : Obligations.DrstResetsDevice := by
  intro s r hp hd hin ha hjob hbody
  have hnotes := placeNotes_notesOnly { s with inbound := [requestRecord Kind.drst.code r] }
  generalize hu : State.placeNotes { s with inbound := [requestRecord Kind.drst.code r] } = u at hnotes
  obtain ⟨hin', htx, habort, hserial, hrdy, hrx, hphase⟩ := hnotes.link
  have htake : u.mayTake (requestRecord Kind.drst.code r) = true :=
    (mayTake_iff u _).mpr ⟨habort.trans ha, .inl ⟨rfl, hjob, hbody⟩⟩
  have hpools : State.reset.freeCues = 4096 ∧ State.reset.freeBlocks = 8192 ∧ State.reset.freeClips = 1024 := by decide
  refine ⟨State.deviceReset { u with inbound := [] }, ?_, reset_slot, rfl, rfl, rfl, rfl, rfl, rfl, rfl, hserial,
    hrdy, hrx, hphase.trans hp, (detached_wire u.tx).trans (congrArg (Option.map Tx.wire) htx), hpools⟩
  have hsubmit : exec (.drst r) s = .next (s.enqueue (requestRecord Kind.drst.code r)).settle :=
    (exec_requestOf .drst r s).trans (congrArg Host.Outcome.next (running_of_run hp hd))
  rw [hsubmit, State.enqueue, hin, if_pos (by decide), List.nil_append, settle_eq, hu, hin']
  refine congrArg (fun v : State => Host.Outcome.next v.transmitBegin) ((drain_of_taken hin' htake 0).trans
    (congrArg State.placeNotes ?_))
  rw [← hserial]
  exact (handle_drst r _).trans (takeDrst_resets hjob hbody _)

end Sys2Proof.Machine
end

section
/-! PROOFS. NCLR and NSET (R193, R194), the rotation (R182) and the interval of a cue (R50 to R52). -/

namespace Sys2Proof.Machine

-- No section variable stands here: the option has Lean elaborate one proof after the other (see the byte facts above).
set_option deprecated.oldSectionVars true

/-! ### Kind sets and counts (R193, R194, R198) -/

theorem kindsWithin_iff {cls set : KindSet} : kindsWithin cls set = true ↔ set &&& ~~~cls = 0#32 := beq_iff_eq

/-- A body that is a kind set is read as a number of that set. -/
theorem parseWord_set {body : List Byte} {set : KindSet} (h : body = beBytes 4 set.toNat) :
    ∃ n, parseWord body = some n ∧ BitVec.ofNat 32 n = set :=
  ⟨set.toNat, h ▸ parseWord_beBytes set.isLt, (BitVec.ofNat_toNat ..).trans (BitVec.setWidth_eq set)⟩

/-- The counts with their kinds. -/
theorem zip_kinds (x : Notices) : x.counts.zip x.kinds = (List.range x.counts.length).map fun i => (x.counts.getD i 0, i) := by
  refine List.ext_getElem (by simp [Notices.kinds]) fun i h _ => ?_
  have hi : i < x.counts.length := (List.length_zip ▸ h).trans_le (Nat.min_le_left ..)
  rw [List.getElem_zip, List.getElem_map, List.getElem_range, List.getD_eq_getElem _ _ hi]
  exact congrArg _ (List.getElem_range _)

theorem countBytes_eq (base : Nat) (set : KindSet) (x : Notices) : x.countBytes base set =
    ((List.range x.counts.length).filter fun i => set.getLsbD (base + i)).map
      fun i => BitVec.ofNat 8 (x.counts.getD i 0) := by
  rw [Notices.countBytes, zip_kinds, List.filter_map, List.map_map]
  rfl

theorem clear_counts (base : Nat) (set : KindSet) (x : Notices) {i : Nat} (h : i < x.counts.length) :
    (x.clear base set).counts.getD i 0 = if set.getLsbD (base + i) then 0 else x.counts.getD i 0 := by
  rw [Notices.clear, zip_kinds, List.map_map, List.getD_eq_getElem _ _ (by simpa using h), List.getElem_map,
    List.getElem_range]
  rfl

theorem length_clear (base : Nat) (set : KindSet) (x : Notices) : (x.clear base set).counts.length = x.counts.length := by
  rw [Notices.clear, zip_kinds, List.length_map, List.length_map, List.length_range]

theorem nclrBytes_eq (base : Nat) (cls set : KindSet) (x : Notices) : x.nclrBytes base cls set =
    beBytes 4 (if set = 0#32 then cls else set).toNat ++
      ((List.range x.counts.length).filter fun i => (if set = 0#32 then cls else set).getLsbD (base + i)).map
        fun i => BitVec.ofNat 8 (x.counts.getD i 0) := by
  have hset : returnedKinds cls set = if set = 0#32 then cls else set := if_congr beq_iff_eq rfl rfl
  rw [Notices.nclrBytes, hset, countBytes_eq]

theorem nclrBytes_event (cls set : KindSet) (x : Notices) : x.nclrBytes eventBase cls set =
    beBytes 4 (if set = 0#32 then cls else set).toNat ++
      ((List.range x.counts.length).filter fun i => (if set = 0#32 then cls else set).getLsbD i).map
        fun i => BitVec.ofNat 8 (x.counts.getD i 0) := by
  rw [nclrBytes_eq]
  generalize (if set = 0#32 then cls else set) = named
  exact congrArg (fun p => beBytes 4 named.toNat ++ ((List.range x.counts.length).filter p).map _)
    (funext fun i => congrArg named.getLsbD (Nat.zero_add i))

/-! ### NSET (R194) -/

section
variable {s : State} {r : Req} {j : Fin 8} {b : Job} {set : KindSet}

/-- A request on a job or the device, at a job. -/
theorem job_request {f : Result} {g : Fin 8 → Job → Result} (hj : slotOf r.job = some j) (hb : s.slot j = .job b)
    (k : Kind) : (if (requestRecord k.code r).job = 0#8 then f else
      withSlot (requestRecord k.code r) s fun j => withJobIn (fun _ => true) s j (g j)) = g j b :=
  (if_neg (ne_zero_of_slotOf hj)).trans (withSlot_withJobIn_of_taken hj hb rfl)

/-- Settles O47: the set is within the class, or is refused. -/
theorem nsetReplacesEnables : Obligations.NsetReplacesEnables := by
  intro s r set hready hbody
  obtain ⟨n, hp, rfl⟩ := parseWord_set hbody
  refine ⟨fun j b hj hb => ?_, fun hjob => ?_⟩
  · have hdo : doNset (requestRecord Kind.nset.code r) s = nsetJob r.body j b s := job_request hj hb .nset
    rw [nsetJob, hp] at hdo
    refine iteInduction (motive := fun p => p) (fun h => ?_) fun h => ?_
    · exact exec_requestOf_answered (k := .nset) hready (congrArg (answer _) (hdo.trans (if_pos (kindsWithin_iff.mpr h))))
    · exact exec_requestOf_answered (k := .nset) hready
        (congrArg (answer _) (hdo.trans (if_neg fun hw => h (kindsWithin_iff.mp hw))))
  · have hdo : doNset (requestRecord Kind.nset.code r) s = nsetDevice r.body s := if_pos hjob
    rw [nsetDevice, hp] at hdo
    refine iteInduction (motive := fun p => p) (fun h => ?_) fun h => ?_
    · refine exec_requestOf_answered (k := .nset) hready (congrArg (answer _) ((hdo.trans (if_pos h)).trans ?_))
      rw [h]
      rfl
    · exact exec_requestOf_answered (k := .nset) hready (congrArg (answer _) (hdo.trans (if_neg h)))

/-! ### NCLR (R193) -/

/-- The named counts cleared, and a stall count whose source is active counted again. -/
theorem clearKinds_notices (set : KindSet) (b : Job) : b.clearKinds set =
    { b with notices := if set.getLsbD 16 && b.stalled then (b.notices.clear eventBase set).report eventBase 16 1
                        else b.notices.clear eventBase set } := by
  show (if set.getLsbD 16 && b.stalled then _ else _) = _
  cases set.getLsbD 16 && b.stalled <;> rfl

theorem clearStall_counts {x : Notices} (h : x.counts.length = 17) (set : KindSet) (stalled : Bool) {y : Notices}
    (hy : y = if set.getLsbD 16 && stalled then (x.clear eventBase set).report eventBase 16 1 else x.clear eventBase set) :
    y.enables = x.enables ∧ y.number = x.number ∧ y.wait = x.wait ∧
    (y.pending = true ↔ x.pending = true ∨ set.getLsbD 16 = true ∧ stalled = true ∧ x.enables.getLsbD 16 = true) ∧
    ∀ i, i < 17 → y.counts.getD i 0 =
      if set.getLsbD i then (if i = 16 ∧ stalled = true then 1 else 0) else x.counts.getD i 0 := by
  have hclear : ∀ i, i < 17 →
      (x.clear eventBase set).counts.getD i 0 = if set.getLsbD i then 0 else x.counts.getD i 0 := fun i hi =>
    (clear_counts eventBase set x (hi.trans_eq h.symm)).trans (by rw [eventBase, Nat.zero_add])
  cases hc : set.getLsbD 16 && stalled with
  | false =>
    rw [hc] at hy
    subst hy
    have hno : ¬(set.getLsbD 16 = true ∧ stalled = true) := fun h => by rw [h.1, h.2] at hc; cases hc
    refine ⟨rfl, rfl, rfl, (or_iff_left fun hs => hno ⟨hs.1, hs.2.1⟩).symm, fun i hi => (hclear i hi).trans ?_⟩
    by_cases hs : set.getLsbD i = true
    · exact (if_pos hs).trans ((if_neg (c := i = 16 ∧ stalled = true) fun hi16 => hno ⟨hi16.1 ▸ hs, hi16.2⟩).symm.trans
        (if_pos hs).symm)
    · exact (if_neg hs).trans (if_neg hs).symm
  | true =>
    obtain ⟨hset, hst⟩ := Bool.and_eq_true_iff.mp hc
    rw [hc] at hy
    obtain ⟨-, h16, hne, hp⟩ := report_counts (x.clear eventBase set) eventBase (i := 16) (n := 1)
      ((by decide : 16 < 17).trans_eq (h.symm.trans (length_clear ..).symm))
    have h0 : (x.clear eventBase set).counts.getD 16 0 = 0 := (hclear 16 (by decide)).trans (if_pos hset)
    subst hy
    refine ⟨rfl, rfl, rfl, hp.trans (or_congr_right ?_), fun i hi => ?_⟩
    · exact ⟨fun ha => ⟨hset, hst, ha.2.2⟩, fun ha => ⟨h0, le_rfl, ha.2.2⟩⟩
    · by_cases hi16 : i = 16
      · subst hi16
        exact (h16.trans (congrArg (fun n => min 255 (n + 1)) h0)).trans
          ((if_pos (c := 16 = 16 ∧ stalled = true) ⟨rfl, hst⟩).symm.trans (if_pos hset).symm)
      · refine ((hne i hi16).trans (hclear i hi)).trans ?_
        by_cases hs : set.getLsbD i = true
        · exact (if_pos hs).trans ((if_neg (c := i = 16 ∧ stalled = true) fun ha => hi16 ha.1).symm.trans
            (if_pos hs).symm)
        · exact (if_neg hs).trans (if_neg hs).symm

/-- Settles O46: the set is within the class, or is refused; the counts are cleared position by position. -/
theorem nclrReadsAndClears : Obligations.NclrReadsAndClears := by
  intro s r set hready hbody
  obtain ⟨n, hp, rfl⟩ := parseWord_set hbody
  refine ⟨fun j b hj hb hlen => ?_, fun hjob hlen => ?_⟩
  · have hdo : doNclr (requestRecord Kind.nclr.code r) s = nclrJob r.body j b s := job_request hj hb .nclr
    rw [nclrJob, hp] at hdo
    refine ⟨fun h => ?_, fun h => ⟨b.clearKinds (BitVec.ofNat 32 n), ?_, ?_⟩⟩
    · exact exec_requestOf_answered (k := .nclr) hready
        (congrArg (answer _) (hdo.trans (if_neg fun hw => h (kindsWithin_iff.mp hw))))
    · refine exec_requestOf_answered (k := .nclr) hready
        (congrArg (answer _) ((hdo.trans (if_pos (kindsWithin_iff.mpr h))).trans ?_))
      exact congrArg (Result.mk _ _) (hlen ▸ nclrBytes_event eventSet (BitVec.ofNat 32 n) b.notices)
    · have hy := clearKinds_notices (BitVec.ofNat 32 n) b
      exact ⟨congrArg (fun c : Job => { c with notices := b.notices }) hy,
        clearStall_counts hlen (BitVec.ofNat 32 n) b.stalled (congrArg Job.notices hy)⟩
  · have hdo : doNclr (requestRecord Kind.nclr.code r) s = nclrDevice r.body s := if_pos hjob
    rw [nclrDevice, hp] at hdo
    refine ⟨fun h => ?_, fun h => ⟨s.device.clear alertBase (BitVec.ofNat 32 n), ?_, rfl, rfl, rfl, rfl, fun i hi =>
      clear_counts alertBase _ _ (hi.trans_eq hlen.symm)⟩⟩
    · exact exec_requestOf_answered (k := .nclr) hready
        (congrArg (answer _) (hdo.trans (if_neg fun hw => h (kindsWithin_iff.mp hw))))
    · refine exec_requestOf_answered (k := .nclr) hready
        (congrArg (answer _) ((hdo.trans (if_pos (kindsWithin_iff.mpr h))).trans ?_))
      rw [nclrBytes_eq, hlen]
      rfl

end

end Sys2Proof.Machine
end

section
/-! PROOFS. The rotation of claimants and producers (R182) and the interval of a cue (R50 to R52). -/

namespace Sys2Proof.Machine

-- No section variable stands here: the option has Lean elaborate one proof after the other (see the byte facts above).
set_option deprecated.oldSectionVars true

/-! ### The rotation (R182) -/

theorem length_claimantsAfter (c : Fin 9) : (claimantsAfter c).length = 9 := rfl

theorem claimantsAfter_get : ∀ c i : Fin 9, ∃ d, (claimantsAfter c)[i.val]? = some d ∧ d.val = (c.val + (i.val + 1)) % 9 := by
  decide

theorem mem_claimantsAfter : ∀ c d : Fin 9, d ∈ claimantsAfter c := by decide

theorem mem_after (p q : Producer) : q ∈ p.after := by cases p <;> cases q <;> decide

/-- The first claimant of a rotation that waits has no waiting claimant before it. -/
theorem turn_eq_some {s : State} {c : Fin 9} {p : Producer} (h : s.turn = some (c, p)) : s.claimantTurn c = some p ∧
    ∃ k, 1 ≤ k ∧ k ≤ 9 ∧ c.val = (s.lastClaimant.val + k) % 9 ∧
      ∀ m (d : Fin 9), 1 ≤ m → m < k → d.val = (s.lastClaimant.val + m) % 9 → s.claimantTurn d = none := by
  obtain ⟨l1, a, l2, hl, ha, hnone⟩ := List.findSome?_eq_some_iff.mp h
  obtain ⟨q, hq, hpair⟩ := Option.map_eq_some_iff.mp ha
  cases hpair
  have hlen : l1.length < 9 := by
    have hsum := (congrArg List.length hl).symm.trans (length_claimantsAfter s.lastClaimant)
    rw [List.length_append, List.length_cons] at hsum
    exact Nat.lt_of_lt_of_eq (Nat.lt_add_of_pos_right (Nat.succ_pos _)) hsum
  refine ⟨hq, l1.length + 1, Nat.succ_pos _, hlen, ?_, fun m d h1 hm hd => ?_⟩
  · obtain ⟨e, he, hval⟩ := claimantsAfter_get s.lastClaimant ⟨l1.length, hlen⟩
    rw [hl, List.getElem?_append_right le_rfl, Nat.sub_self] at he
    exact Option.some.inj he ▸ hval
  · obtain ⟨n, rfl⟩ := Nat.exists_eq_add_of_le' h1
    have hn : n < l1.length := Nat.lt_of_succ_lt_succ hm
    obtain ⟨e, he, hval⟩ := claimantsAfter_get s.lastClaimant ⟨n, hn.trans hlen⟩
    rw [hl, List.getElem?_append_left hn] at he
    have hde : d = e := Fin.ext (hd.trans hval.symm)
    exact Option.map_eq_none_iff.mp (hnone d (hde ▸ List.mem_of_getElem? he))

theorem turn_eq_none_iff {s : State} : s.turn = none ↔ ∀ c, s.claimantTurn c = none :=
  List.findSome?_eq_none_iff.trans ⟨fun h c => Option.map_eq_none_iff.mp (h c (mem_claimantsAfter _ c)),
    fun h c _ => Option.map_eq_none_iff.mpr (h c)⟩

theorem claimantSlot_of_val {c : Fin 9} {j : Fin 8} (h : c.val = j.val) : claimantSlot c = some j :=
  (dif_pos (h ▸ j.isLt)).trans (congrArg some (Fin.ext h))

/-- The first producer after the one served last that waits has no waiting producer before it. -/
theorem job_turn_iff (b : Job) : (b.turn = none ↔ ∀ p, b.waits p = false) ∧
    ∀ p, b.turn = some p → b.waits p = true ∧
      ∃ pre post, b.lastProducer.after = pre ++ p :: post ∧ ∀ q ∈ pre, b.waits q = false := by
  refine ⟨List.find?_eq_none.trans ⟨fun h p => Bool.eq_false_iff.mpr (h p (mem_after _ p)), fun h p _ =>
    Bool.eq_false_iff.mp (h p)⟩, fun p hp => ?_⟩
  obtain ⟨hw, pre, post, hl, hpre⟩ := List.find?_eq_some_iff_append.mp hp
  exact ⟨hw, pre, post, hl, fun q hq => (Bool.not_eq_true' _).mp (hpre q hq)⟩

/-- Settles O57: both rotations are searches of a list that begins after the one served last. -/
theorem turnIsNextInRotation : Obligations.TurnIsNextInRotation := by
  refine fun s => ⟨turn_eq_none_iff, fun c p => turn_eq_some, fun c j h => ⟨fun b hb => ?_, fun hno => ?_⟩, rfl,
    fun b => ⟨rfl, rfl, ?_, rfl, (job_turn_iff b).1, ?_⟩⟩
  · rw [State.claimantTurn, claimantSlot_of_val h]
    dsimp only
    rw [hb]
  · rw [State.claimantTurn, claimantSlot_of_val h]
    dsimp only
    cases hs : s.slot j with
    | job b => exact absurd hs (hno b)
    | free => rfl
    | restoring _ => rfl
  · rw [Job.waits]
    cases b.park <;> rfl
  · have hafter := (job_turn_iff b).2
    generalize b.lastProducer = last at hafter ⊢
    cases last <;> exact hafter

/-! ### The interval of a cue (R6, R50 to R52) -/

theorem frameInterval_eq {tb : Timebase} {ps pe : Nat} (hle : tb.frameOf ps ≤ tb.frameOf pe) :
    frameInterval tb ps pe = if tb.span ≤ tb.frameOf ps then none else
      some ⟨tb.frameOf ps, min (max (tb.frameOf pe) (tb.frameOf ps + 1)) tb.span, false, decide (tb.frameOf pe = tb.frameOf ps),
        decide (tb.span < tb.frameOf pe)⟩ := by
  unfold frameInterval
  generalize tb.frameOf ps = f0 at *
  generalize tb.frameOf pe = f1 at *
  by_cases hspan : tb.span ≤ f0
  · rw [if_pos hspan, if_pos hspan]
  rw [if_neg hspan, if_neg hspan]
  by_cases hs : f1 = f0
  · subst hs
    rw [beq_self_eq_true, Nat.max_eq_right (Nat.le_succ f1), decide_eq_true rfl,
      decide_eq_false (Nat.not_lt.mpr (Nat.le_of_not_le hspan))]
    exact congrArg (fun x => some (⟨f1, min (f1 + 1) tb.span, false, true, x⟩ : Interval))
      (decide_eq_false (Nat.not_lt.mpr (Nat.lt_of_not_le hspan)))
  · rw [beq_false_of_ne hs, Nat.max_eq_left (Nat.lt_of_le_of_ne hle (Ne.symm hs)), decide_eq_false hs]
    rfl

/-- The frames and marks of a cue that is taken (R6, R52). -/
noncomputable def Job.interval (b : Job) (ts te : Nat) : Interval :=
  let a := b.tb.anchor.getD 0
  let f0 := b.tb.frameOf (ts - a)
  let f1 := b.tb.frameOf (te - a)
  ⟨max f0 (b.w.getD 0), min (max f1 (f0 + 1)) b.tb.span, decide (ts < a ∨ f0 < b.w.getD 0), decide (f1 = f0),
    decide (b.tb.span < f1)⟩

theorem judgeCue_eq (b : Job) {ts te : Nat} (hle : ts ≤ te) : b.judgeCue ts te =
    if te ≤ b.tb.anchor.getD 0 then .refuse .late
    else if b.tb.span ≤ b.tb.frameOf (ts - b.tb.anchor.getD 0) then .refuse .beyondSpan
    else if (b.interval ts te).endF ≤ b.w.getD 0 then .refuse .late else .take (b.interval ts te) := by
  refine congrArg (ite _ _) ?_
  rw [frameInterval_eq (frameOf_mono b.tb (Nat.sub_le_sub_right hle _))]
  by_cases hspan : b.tb.span ≤ b.tb.frameOf (ts - b.tb.anchor.getD 0)
  · rw [if_pos hspan, if_pos hspan]
  · rw [if_neg hspan, if_neg hspan]
    exact if_congr Iff.rfl rfl (congrArg (fun x => Verdict.take { b.interval ts te with clipped := x }) (Bool.decide_or _ _).symm)

/-- Settles O34: the judgement's tests, and the interval it takes. -/
theorem cueIntervalIsJudged : Obligations.CueIntervalIsJudged := by
  intro b ts te iv _ hle h
  rw [judgeCue_eq b hle] at h
  by_cases hlate : te ≤ b.tb.anchor.getD 0
  · cases (if_pos hlate).symm.trans h
  replace h := (if_neg hlate).symm.trans h
  by_cases hspan : b.tb.span ≤ b.tb.frameOf (ts - b.tb.anchor.getD 0)
  · cases (if_pos hspan).symm.trans h
  replace h := (if_neg hspan).symm.trans h
  by_cases hw : (b.interval ts te).endF ≤ b.w.getD 0
  · cases (if_pos hw).symm.trans h
  obtain rfl := Verdict.take.inj ((if_neg hw).symm.trans h)
  have hspan := Nat.lt_of_not_le hspan
  have hw := Nat.lt_of_not_le hw
  exact ⟨Nat.lt_of_not_le hlate, hspan, rfl, rfl,
    max_lt (lt_min ((Nat.lt_succ_self _).trans_le (Nat.le_max_right ..)) hspan) hw, hw, Nat.min_le_right .., decide_eq_true_iff,
    decide_eq_true_iff, decide_eq_true_iff, fun hb =>
      Nat.lt_asymm (of_decide_eq_true hb.2) ((of_decide_eq_true hb.1).trans_lt hspan)⟩

end Sys2Proof.Machine
end

section
/-! PROOFS. CREV and KREV (R58, R143). -/

namespace Sys2Proof.Machine

-- No section variable stands here: the option has Lean elaborate one proof after the other (see the byte facts above).
set_option deprecated.oldSectionVars true

/-! ### Data requests at a job that runs or waits for its anchor -/

section
variable {s u : State} {r : Req} {j : Fin 8} {b : Job} {k : Kind} {opened st : Status} {fs : List Byte}
  {wait : List Byte → Fin 8 → Job → State → Result}

/-- The answer of a data request handled by a RUNNING job. -/
theorem exec_of_running (hask : s.asked r j b) (hst : b.state = .running)
    (hhandle : handle (requestRecord k.code r) s =
      answer (requestRecord k.code r) (dataRequest k opened wait (requestRecord k.code r) s))
    (hf : runData k r.body j b s = ⟨u, st, fs⟩) : exec (requestOf k r) s = u.answered k r st fs := by
  obtain ⟨hready, hj, hb⟩ := hask
  exact exec_requestOf_answered hready
    (hhandle.trans (congrArg (answer _) ((dataRequest_of_running (r := requestRecord k.code r) hj hb hst).trans hf)))

/-- The answer of a data request handled by a job in ANCHOR_WAIT. -/
theorem exec_of_anchorWait (hask : s.asked r j b) (hst : b.state = .anchorWait)
    (hhandle : handle (requestRecord k.code r) s =
      answer (requestRecord k.code r) (dataRequest k opened wait (requestRecord k.code r) s))
    (hf : wait r.body j b s = ⟨u, st, fs⟩) : exec (requestOf k r) s = u.answered k r st fs := by
  obtain ⟨hready, hj, hb⟩ := hask
  exact exec_requestOf_answered hready
    (hhandle.trans (congrArg (answer _) ((dataRequest_of_anchorWait (r := requestRecord k.code r) hj hb hst).trans hf)))

/-- A request that both states refuse alike. -/
theorem exec_of_refused (hask : s.asked r j b) (hst : b.state = .running ∨ b.state = .anchorWait)
    (hhandle : handle (requestRecord k.code r) s =
      answer (requestRecord k.code r) (dataRequest k opened wait (requestRecord k.code r) s))
    (hrun : runData k r.body j b s = refuse st s) (hwait : wait r.body j b s = refuse st s) :
    exec (requestOf k r) s = s.answered k r st [] :=
  hst.elim (fun h => exec_of_running hask h hhandle hrun) fun h => exec_of_anchorWait hask h hhandle hwait

end

/-! ### Revokes (R58, R143) -/

theorem parseRevoke_bytes (n x3 x2 x1 x0 : Byte) :
    (15 < n.toNat → parseRevoke [n, x3, x2, x1, x0] = none) ∧
    (¬15 < n.toNat → ∃ i, parseRevoke [n, x3, x2, x1, x0] = some (i, natOfBytes [x3, x2, x1, x0]) ∧ i.val = n.toNat) := by
  have hn : field [n, x3, x2, x1, x0] 0 1 = n.toNat := field_cons_zero ..
  refine ⟨fun h => dif_neg ?_, fun h => ⟨⟨n.toNat, Nat.lt_succ_of_le (Nat.le_of_not_lt h)⟩, ?_, rfl⟩⟩
  · rw [hn]
    exact Nat.not_lt.mpr h
  · refine (dif_pos (hn.trans_lt (Nat.lt_succ_of_le (Nat.le_of_not_lt h)))).trans ((if_pos rfl).trans ?_)
    exact congrArg (fun i : Fin 16 => some (i, _)) (Fin.ext hn)

/-- Settles O36: the tests in their order, at a RUNNING job and in ANCHOR_WAIT. -/
theorem crevRemovesCue : Obligations.CrevRemovesCue := by
  refine ⟨fun s r j b hask hst => ⟨fun n x3 x2 x1 x0 hbody => ?_, fun i id hp hnone => ?_⟩,
    fun s r j b i id w t hask hp ht => ⟨fun hst hw => ⟨fun hno => ?_, fun c hc hid huniq => ?_⟩, fun hst => ?_⟩⟩
  · refine iteInduction (motive := fun p => p) (fun h => ?_) fun h => hbody ▸ (parseRevoke_bytes n x3 x2 x1 x0).2 h
    have hbad := runCrev_of_bad_body (hbody ▸ (parseRevoke_bytes n x3 x2 x1 x0).1 h) j b s
    exact exec_of_refused (k := .crev) hask hst (handle_crev r s) hbad.1 hbad.2
  · refine exec_of_refused (k := .crev) hask hst (handle_crev r s) ?_ ?_
    · show runCrev r.body j b s = _
      rw [runCrev, hp]
      dsimp only
      rw [hnone]
    · rw [waitCrev, hp]
      dsimp only
      rw [hnone]
  · refine exec_of_running (k := .crev) hask hst (handle_crev r s) ?_
    show runCrev r.body j b s = _
    have hfind : (t.cues.find? fun c => c.id == id) = none :=
      List.find?_eq_none.mpr fun c hc he => hno c hc (eq_of_beq he)
    rw [runCrev, hp]
    dsimp only
    rw [ht]
    dsimp only
    rw [hfind]
    rfl
  · have hrun : runCrev r.body j b s = if c.startF < w then refuse .tooLate s else
        ⟨s.setJob j (b.setTrack i (.text { t with cues := t.cues.filter fun d => d.id != id })), .ok, []⟩ := by
      have hfind : (t.cues.find? fun c => c.id == id) = some c := by
        cases hf : t.cues.find? fun c => c.id == id with
        | none => exact absurd (beq_iff_eq.mpr hid) (List.find?_eq_none.mp hf c hc)
        | some d => exact congrArg some (huniq d (List.mem_of_find?_eq_some hf) (eq_of_beq (List.find?_some (p := fun c : Cue => c.id == id) hf)))
      rw [runCrev, hp]
      dsimp only
      rw [ht]
      dsimp only
      rw [hfind, hw]
      rfl
    refine iteInduction (motive := fun p => p) (fun h => ?_) fun h => ?_
    · exact exec_of_running (k := .crev) hask hst (handle_crev r s) (hrun.trans (if_pos h))
    · exact exec_of_running (k := .crev) hask hst (handle_crev r s) (hrun.trans (if_neg h))
  · have hwait : waitCrev r.body j b s = if b.untimed.any (Untimed.isCueOf i id) then
        ⟨s.setJob j { b with untimed := b.untimed.filter fun u => !u.isCueOf i id }, .ok, []⟩ else refuse .notFound s := by
      rw [waitCrev, hp]
      dsimp only
      rw [ht]
    refine iteInduction (motive := fun p => p) (fun h => ?_) fun h => ?_
    · exact exec_of_anchorWait (k := .crev) hask hst (handle_crev r s) (hwait.trans (if_pos h))
    · exact exec_of_anchorWait (k := .crev) hask hst (handle_crev r s) (hwait.trans (if_neg h))

/-! ### A DESC track replaced -/

theorem desc?_setTrack_self (b : Job) (i : Fin 16) (t : DescTrack) : (b.setTrack i (.desc t)).desc? i = some t := by
  rw [Job.desc?, track_setTrack_self]

theorem desc?_setTrack_ne (b : Job) {i k : Fin 16} (x : Track) (h : k ≠ i) : (b.setTrack i x).desc? k = b.desc? k := by
  rw [Job.desc?, Job.desc?, track_setTrack_ne b x h]

/-- A job whose DESC tracks keep their settled points is followed by no test. -/
theorem thenPump_of_same {s : State} {j : Fin 8} {b c : Job} (h : ∀ i, (b.desc? i).map b.settled = (c.desc? i).map c.settled)
    (st : Status) (fs : List Byte) : thenPump j b ⟨s.setJob j c, st, fs⟩ = ⟨s.setJob j c, st, fs⟩ := by
  refine if_neg fun hm => ?_
  dsimp only at hm
  rw [job?_setJob_self] at hm
  obtain ⟨i, hi⟩ := (settledMoves_iff b c).mp hm
  exact hi (h i)

theorem any_id_iff {l : List Clip} {id : Nat} : (l.any fun c => c.id == id) = true ↔ ∃ c ∈ l, c.id = id :=
  List.any_eq_true.trans (exists_congr fun _ => and_congr_right fun _ => beq_iff_eq)

section
variable {b : Job} {i : Fin 16} {t : DescTrack} {id : Nat}

/-- The job KREV leaves before any search. -/
noncomputable def Job.withoutClip (b : Job) (i : Fin 16) (t : DescTrack) (id : Nat) : Job :=
  (b.setTrack i (.desc { t with pending := t.pending.filter fun c => c.id != id })).retireGaps

theorem withoutClip_state (b : Job) (i : Fin 16) (t : DescTrack) (id : Nat) : (b.withoutClip i t id).state = b.state := rfl

/-- A clip that is not the head leaves every settled point. -/
theorem withoutClip_settled (ht : b.desc? i = some t) {h : Clip} {rest : List Clip} (hp : t.pending = h :: rest)
    (hne : h.id ≠ id) (k : Fin 16) :
    (b.desc? k).map b.settled = ((b.withoutClip i t id).desc? k).map (b.withoutClip i t id).settled := by
  by_cases hk : k = i
  · subst hk
    have hu : (b.withoutClip k t id).desc? k = some { t with pending := t.pending.filter fun c => c.id != id } :=
      desc?_setTrack_self ..
    rw [ht, hu]
    have hhead : t.pending.head? = (t.pending.filter fun c => c.id != id).head? := by
      rw [hp]
      exact (congrArg List.head? (List.filter_cons_of_pos (p := fun c : Clip => c.id != id) (l := rest) (bne_iff_ne.mpr hne))).symm
    exact congrArg (fun x : Option Clip => some (optMin (if t.tailState = TailState.tentative then t.prev.map fun p => p.endS
      else none) (optMin (x.map fun k => k.d - t.duck.rampDown) (if b.state = JobState.finishing then none
      else some (b.ws - t.duck.rampDown))))) hhead
  · have hu : (b.withoutClip i t id).desc? k = b.desc? k := desc?_setTrack_ne b _ hk
    exact (congrArg (Option.map b.settled) hu).symm

end

/-- Settles O39: the tests in their order, at a RUNNING job and in ANCHOR_WAIT. -/
theorem krevRemovesClip : Obligations.KrevRemovesClip := by
  refine ⟨fun s r j b hask hst => ⟨fun n x3 x2 x1 x0 hbody => ?_, fun i id hp hnone => ?_⟩,
    fun s r j b i id t hask hp ht => ⟨fun hst => ?_, fun hst => ?_⟩⟩
  · refine iteInduction (motive := fun p => p) (fun h => ?_) fun h => hbody ▸ (parseRevoke_bytes n x3 x2 x1 x0).2 h
    have hbad := runKrev_of_bad_body (hbody ▸ (parseRevoke_bytes n x3 x2 x1 x0).1 h) j b s
    exact exec_of_refused (k := .krev) hask hst (handle_krev r s)
      ((congrArg (thenPump j b) hbad.1).trans (thenPump_refuse hask.2.2 _)) hbad.2
  · refine exec_of_refused (k := .krev) hask hst (handle_krev r s)
      (Eq.trans (congrArg (thenPump j b) ?_) (thenPump_refuse hask.2.2 .badTrack)) ?_
    · rw [runKrev, hp]
      dsimp only
      rw [hnone]
    · rw [waitKrev, hp]
      dsimp only
      rw [hnone]
  · have hrun : runKrev r.body j b s = if t.placed.any fun c => c.id == id then refuse .tooLate s
        else if t.pending.any fun c => c.id == id then
          ⟨s.setJob j (if (match t.pending.head? with | some h => h.id == id | none => false) then
            (b.withoutClip i t id).search i else b.withoutClip i t id), .ok, []⟩
        else refuse .notFound s := by
      rw [runKrev, hp]
      dsimp only
      rw [ht]
      rfl
    have hrefuse : ∀ st, runKrev r.body j b s = refuse st s → exec (.krev r) s = s.answered .krev r st [] := fun st h =>
      exec_of_running (k := .krev) hask hst (handle_krev r s)
        ((congrArg (thenPump j b) h).trans (thenPump_refuse hask.2.2 st))
    have hjob : ∀ c : Job, c.state = .running → runKrev r.body j b s = ⟨s.setJob j c, .ok, []⟩ →
        exec (.krev r) s = (s.tested j b c).answered .krev r .ok [] := fun c hc h =>
      exec_of_running (k := .krev) hask hst (handle_krev r s)
        ((congrArg (thenPump j b) h).trans (thenPump_eq_tested hst hc ..))
    refine ⟨fun hpl => hrefuse _ (hrun.trans (if_pos (any_id_iff.mpr hpl))), fun hpl hpe => ?_, fun hpl h rest hl => ?_⟩
    · have hno : ∀ l : List Clip, (∀ c ∈ l, c.id ≠ id) → ¬(l.any fun c => c.id == id) = true := fun l h ha =>
        (any_id_iff.mp ha).elim fun c hc => h c hc.1 hc.2
      exact hrefuse _ (hrun.trans ((if_neg (hno _ hpl)).trans (if_neg (hno _ hpe))))
    · have hlate : ¬(t.placed.any fun c => c.id == id) = true := fun ha =>
        (any_id_iff.mp ha).elim fun c hc => hpl c hc.1 hc.2
      rw [if_neg hlate, hl] at hrun
      refine ⟨fun hid => ?_, fun hid hin => ?_⟩
      · refine hjob _ (((b.withoutClip i t id).search_works i).keeps.1.trans hst) (hrun.trans ?_)
        refine (if_pos (any_id_iff.mpr ⟨h, List.mem_cons_self, hid⟩)).trans ?_
        exact congrArg (fun c => Result.mk (s.setJob j c) .ok []) (if_pos (beq_iff_eq.mpr hid))
      · refine exec_of_running (k := .krev) hask hst (handle_krev r s) ((congrArg (thenPump j b) (hrun.trans ?_)).trans
          (thenPump_of_same (c := b.withoutClip i t id) (withoutClip_settled ht hl hid) .ok []))
        obtain ⟨c, hc, hcid⟩ := hin
        refine (if_pos (any_id_iff.mpr ⟨c, List.mem_cons_of_mem _ hc, hcid⟩)).trans ?_
        exact congrArg (fun c => Result.mk (s.setJob j c) .ok []) (if_neg fun he => hid (eq_of_beq he))
  · have hwait : waitKrev r.body j b s = if b.untimed.any (Untimed.isClipOf i id) then
        ⟨s.setJob j { b with untimed := b.untimed.filter fun u => !u.isClipOf i id }, .ok, []⟩ else refuse .notFound s := by
      rw [waitKrev, hp]
      dsimp only
      rw [ht]
    refine iteInduction (motive := fun p => p) (fun h => ?_) fun h => ?_
    · exact exec_of_anchorWait (k := .krev) hask hst (handle_krev r s) (hwait.trans (if_pos h))
    · exact exec_of_anchorWait (k := .krev) hask hst (handle_krev r s) (hwait.trans (if_neg h))

end Sys2Proof.Machine
end

section
/-! PROOFS. JQRY and GQRY (R39, R130). -/

namespace Sys2Proof.Machine

-- No section variable stands here: the option has Lean elaborate one proof after the other (see the byte facts above).
set_option deprecated.oldSectionVars true

section
variable {s : State} {r : Req} {j : Fin 8}

theorem exec_jqry (hready : s.ready = true) (hj : slotOf r.job = some j) (hbody : r.body = []) :
    exec (.jqry r) s = s.answered .jqry r .ok (s.slot j).jqryBytes := by
  refine exec_requestOf_answered (k := .jqry) hready (congrArg (answer _) ((withSlot_of_slot hj).trans ?_))
  rw [show parseEmpty (requestRecord Kind.jqry.code r).body = some () from congrArg parseEmpty hbody]

theorem exec_gqry (hready : s.ready = true) (hj : slotOf r.job = some j) {n : Byte} (hbody : r.body = [n]) :
    exec (.gqry r) s = if n.toNat ≤ 63 then s.answered .gqry r .ok ((s.slot j).gqryBytes n.toNat)
      else s.answered .gqry r .badField [] := by
  have hfield : field r.body 0 1 = n.toNat := hbody ▸ field_cons_zero n []
  have hcond : (decide (r.body.length = 1) && decide (field r.body 0 1 ≤ 63)) = true ↔ n.toNat ≤ 63 := by
    rw [hfield, hbody]
    exact Bool.and_eq_true_iff.trans ((and_iff_right rfl).trans decide_eq_true_iff)
  refine iteInduction (fun h => ?_) fun h => ?_
  all_goals refine exec_requestOf_answered (k := .gqry) hready (congrArg (answer _) ((withSlot_of_slot hj).trans ?_))
  · rw [show parseGqry (requestRecord Kind.gqry.code r).body = some n.toNat from
      (if_pos (hcond.mpr h)).trans (congrArg some hfield)]
  · rw [show parseGqry (requestRecord Kind.gqry.code r).body = none from if_neg fun hc => h (hcond.mp hc)]
    rfl

end

/-! ### The job's rows, before and from RUNNING onward -/

theorem started_eq (x : JobState) : x.started = !(x == .opened || x == .anchorWait) := by cases x <;> rfl

theorem jqryBytes_before {b : Job} (h : b.state.started = false) : (Slot.job b).jqryBytes =
    beBytes 1 b.state.code ++ optBytes 4 b.w ++ optBytes 4 b.e ++ absentBytes 13 ++ beBytes 2 b.cueCount ++
      beBytes 2 b.blockCount ++ beBytes 2 b.clipCount ++ absentBytes 1 ++ beBytes 1 b.latch.length ++ beBytes 4 b.tb.span := by
  have hnone : ∀ n, b.since n = none := fun n => if_neg (Bool.eq_false_iff.mp h)
  have hrow : ∀ x : List Byte, x ++ absentBytes 4 ++ absentBytes 4 ++ absentBytes 4 ++ absentBytes 1 = x ++ absentBytes 13 :=
    fun x => by rw [List.append_assoc, List.append_assoc, List.append_assoc]; rfl
  rw [Slot.jqryBytes, hnone, hnone, hnone, hnone, hnone, optBytes, optBytes, hrow]

theorem jqryBytes_from {b : Job} (h : b.state.started = true) : (Slot.job b).jqryBytes =
    beBytes 1 b.state.code ++ optBytes 4 b.w ++ optBytes 4 b.e ++ (beBytes 4 b.seg.next ++ beBytes 4 b.lane.next ++
      beBytes 4 b.cls.horizon ++ beBytes 1 b.gd.state.code) ++ beBytes 2 b.cueCount ++ beBytes 2 b.blockCount ++
      beBytes 2 b.clipCount ++ beBytes 1 b.gaps.length ++ beBytes 1 b.latch.length ++ beBytes 4 b.tb.span := by
  have hsome : ∀ n, b.since n = some n := fun n => if_pos h
  rw [Slot.jqryBytes, hsome, hsome, hsome, hsome, hsome, ← List.append_assoc, ← List.append_assoc, ← List.append_assoc]
  rfl

theorem gqryBytes_eq (n : Nat) (b : Job) : b.gqryBytes n = beBytes 1 b.state.code ++
    ([flagByte b.cls.levelsSeen] ++ beBytes 4 b.cls.horizon ++ beBytes 1 b.gd.state.code ++
      (if b.gd.state = .gapWait then beBytes 1 b.gd.quietCount ++ optBytes 4 b.gd.quietStart else 0#8 :: absentBytes 4) ++
      (if b.gd.state = .speechWait then beBytes 1 b.gd.loudCount ++ optBytes 4 b.gd.loudStart else 0#8 :: absentBytes 4) ++
      [if b.gd.recorded = true ∧ (b.gd.state = .gap ∨ b.gd.state = .speechWait) then 1#8 else 0#8] ++
      beBytes 4 b.gd.nextGap ++ beBytes 1 b.gaps.length ++ beBytes 1 ((b.gaps.drop n).take 32).length ++
      ((b.gaps.drop n).take 32).flatMap gapBytes) := by
  have hflag : flagByte (b.gd.recorded && (b.gd.state == .gap || b.gd.state == .speechWait)) =
      if b.gd.recorded = true ∧ (b.gd.state = .gap ∨ b.gd.state = .speechWait) then 1#8 else 0#8 :=
    if_congr (Bool.and_eq_true_iff.trans (and_congr_right' (Bool.or_eq_true_iff.trans (or_congr beq_iff_eq beq_iff_eq))))
      rfl rfl
  rw [Job.gqryBytes, hflag]
  simp only [List.append_assoc]
  rfl

/-- Settles O31: the rows of R197, the job's before and from RUNNING onward. -/
theorem queriesReportSlot : Obligations.QueriesReportSlot := by
  refine ⟨rfl, rfl, fun s r j hready hj => ⟨fun hbody => ?_, fun n hbody => ⟨fun hn => ?_, fun hn => ?_⟩⟩⟩
  · have hexec := exec_jqry hready hj hbody
    refine ⟨fun h => ?_, fun a h => ?_, fun b h => ?_⟩
    all_goals rw [h] at hexec
    · exact hexec.trans (congrArg (s.answered .jqry r .ok) rfl)
    · exact hexec.trans (congrArg (s.answered .jqry r .ok) rfl)
    · refine hexec.trans (congrArg (s.answered .jqry r .ok) ?_)
      by_cases he : (b.state == .opened || b.state == .anchorWait) = true
      · rw [if_pos he, if_pos he]
        exact jqryBytes_before ((started_eq _).trans (congrArg _ he))
      · rw [if_neg he, if_neg he]
        exact jqryBytes_from ((started_eq _).trans (congrArg _ (Bool.eq_false_iff.mpr he)))
  · exact (exec_gqry hready hj hbody).trans (if_neg (Nat.not_le.mpr hn))
  · have hexec := (exec_gqry hready hj hbody).trans (if_pos hn)
    refine ⟨fun h => ?_, fun a h => ?_, fun b h => ?_⟩
    all_goals rw [h] at hexec
    · exact hexec.trans (congrArg (s.answered .gqry r .ok) rfl)
    · exact hexec.trans (congrArg (s.answered .gqry r .ok) rfl)
    · refine hexec.trans (congrArg (s.answered .gqry r .ok) ?_)
      by_cases he : (b.state == .opened || b.state == .anchorWait) = true
      · rw [if_pos he]
        exact if_neg (Bool.eq_false_iff.mp ((started_eq _).trans (congrArg _ he)))
      · rw [if_neg he]
        have hstarted : b.state.started = true := (started_eq _).trans (congrArg _ (Bool.eq_false_iff.mpr he))
        exact (if_pos hstarted).trans (gqryBytes_eq _ _)

end Sys2Proof.Machine
end

section
/-! PROOFS. NOTEs placed, waiting and withdrawn (R182, R188, R191, R192). -/

namespace Sys2Proof.Machine

-- No section variable stands here: the option has Lean elaborate one proof after the other (see the byte facts above).
set_option deprecated.oldSectionVars true

/-! ### The record of a NOTE (R192) -/

theorem entries_event (x : Notices) : x.entries eventBase =
    ((x.counts.zip (List.range x.counts.length)).filter fun p => p.1 != 0).map fun p =>
      [BitVec.ofNat 8 p.2, BitVec.ofNat 8 p.1, if x.enables.getLsbD p.2 then 1#8 else 0#8] := by
  refine List.map_congr_left fun p _ => ?_
  rw [show eventBase + p.2 = p.2 from Nat.zero_add p.2]
  rfl

/-- The entry of a job's NOTE in the store. -/
noncomputable def jobNote (j : Fin 8) (x : Notices) : OutEntry :=
  { record := noteRecord (jobNumber j) eventBase x, cls := .note, owner := some j, unfinished := false, lastPart := false }

/-- The entry of the device's NOTE. -/
noncomputable def alertNote (x : Notices) : OutEntry :=
  { record := noteRecord 0#8 alertBase x, cls := .alert, owner := none, unfinished := false, lastPart := false }

theorem jobNote_eq (j : Fin 8) {x : Notices} {es : List (List Byte)} (h : x.entries eventBase = es) : jobNote j x =
    ⟨⟨0x81#8, jobNumber j, 0#8, x.number, [0#8, BitVec.ofNat 8 es.length] ++ es.flatten⟩, .note, some j, false, false⟩ :=
  h ▸ rfl

section
variable {s : State} {j : Fin 8} {b : Job}

theorem placeJobNote_of_empty (hb : s.job? j = some b) (he : b.notices.entries eventBase = []) :
    s.placeJobNote j = s.setJob j { b with notices := b.notices.withdrawn } := by
  rw [State.placeJobNote, hb]
  exact if_pos (he ▸ rfl)

theorem placeJobNote_of_entries (hb : s.job? j = some b) (he : b.notices.entries eventBase ≠ []) :
    s.placeJobNote j = (s.place (jobNote j b.notices)).setJob j { b with notices := b.notices.placed } := by
  rw [State.placeJobNote, hb]
  exact if_neg fun h => he (List.isEmpty_iff.mp h)

theorem placeAlertNote_of_empty (he : s.device.entries alertBase = []) :
    s.placeAlertNote = { s with device := s.device.withdrawn } := if_pos (he ▸ rfl)

theorem placeAlertNote_of_entries (he : s.device.entries alertBase ≠ []) :
    s.placeAlertNote = { s.place (alertNote s.device) with device := s.device.placed } :=
  if_neg fun h => he (List.isEmpty_iff.mp h)

/-! ### Room (R181, R182) -/

theorem freeEntries_eq (s : State) : s.freeEntries = 64 - (s.store.length + if s.tx.any Tx.holds then 1 else 0) := by
  rw [State.freeEntries, State.used]
  cases s.tx <;> rfl

theorem roomNow_iff : s.roomNow = true ↔ 8 < s.freeEntries ∧ s.turn = none := by
  refine Bool.and_eq_true_iff.trans (and_congr decide_eq_true_iff ?_)
  rw [State.anyWaiting]
  cases s.turn with
  | none => exact iff_of_true rfl rfl
  | some x => exact iff_of_false Bool.false_ne_true (Option.some_ne_none x)

/-! ### A NOTE whose turn it is (R182, R192) -/

theorem notePlace_of_turn {c : Fin 9} (hphase : s.phase = .run) (hdue : s.roomDue = true) (hturn : s.turn = some (c, .notice)) :
    exec .notePlace s =
      .next (if (s.serve c .notice).roomDue then s.serve c .notice else (s.serve c .notice).settle) := by
  refine congrArg Host.Outcome.next ((if_pos ⟨hphase, hdue⟩).trans ?_)
  rw [hturn]
  rfl

/-- A NOTE with entries is placed, and its claimant is the one served last. -/
theorem notePlace_placed {c : Fin 9} (hphase : s.phase = .run) (hdue : s.roomDue = true)
    (hturn : s.turn = some (c, .notice)) (he : s.noteEmpty c = false) :
    exec .notePlace s = .next { (s.served c .notice).serveNote c with roomDue := false }.settle := by
  rw [notePlace_of_turn hphase hdue hturn, show s.serve c .notice = { (s.served c .notice).serveNote c with roomDue := false }
    from if_neg (Bool.eq_false_iff.mp he)]
  exact congrArg _ (if_neg Bool.false_ne_true)

/-- Whether more room is due or not, a NOTE's turn is served. -/
theorem notePlace_served {c : Fin 9} (hphase : s.phase = .run) (hdue : s.roomDue = true)
    (hturn : s.turn = some (c, .notice)) :
    exec .notePlace s = .next (s.serve c .notice) ∨ exec .notePlace s = .next (s.serve c .notice).settle := by
  rw [notePlace_of_turn hphase hdue hturn]
  generalize s.serve c .notice = u
  cases u.roomDue with
  | true => exact .inl (congrArg _ (if_pos rfl))
  | false => exact .inr (congrArg _ (if_neg Bool.false_ne_true))

/-- A NOTE without entries is withdrawn, and the room goes to the next that waits. -/
theorem serve_withdrawn {c : Fin 9} (he : s.noteEmpty c = true) :
    s.serve c .notice = { s.serveNote c with roomDue := (s.serveNote c).anyWaiting } := if_pos he

theorem noteEmpty_iff_of_job {c : Fin 9} (hc : claimantSlot c = some j) (hb : s.job? j = some b) :
    s.noteEmpty c = (b.notices.entries eventBase).isEmpty := by
  rw [State.noteEmpty, hc]
  dsimp only
  rw [hb]

theorem serveNote_of_job {c : Fin 9} (hc : claimantSlot c = some j) : s.serveNote c = s.placeJobNote j := by
  rw [State.serveNote, hc]

theorem served_of_job {c : Fin 9} (hc : claimantSlot c = some j) (hb : s.slot j = .job b) (p : Producer) :
    s.served c p = ({ s with lastClaimant := c } : State).setJob j { b with lastProducer := p } := by
  rw [State.served, hc]
  dsimp only [State.mapJob]
  rw [show ({ s with lastClaimant := c } : State).slot j = .job b from hb]

/-! ### A NOTE an event has made pending (R182, R191) -/

theorem noteJob_of_settled (hb : s.job? j = some b) (h : b.notices.pending = false ∨ b.notices.wait = true) :
    s.noteJob j = s := by
  rw [State.noteJob, hb]
  refine if_neg fun hc => ?_
  obtain ⟨hp, hw⟩ := Bool.and_eq_true_iff.mp hc
  exact h.elim (fun h => Bool.false_ne_true (h.symm.trans hp)) fun h => by rw [h] at hw; cases hw

theorem noteJob_of_pending (hb : s.job? j = some b) (hp : b.notices.pending = true) (hw : b.notices.wait = false) :
    s.noteJob j = if s.roomNow then s.placeJobNote j
      else s.setJob j { b with notices := { b.notices with wait := true } } := by
  rw [State.noteJob, hb]
  exact if_pos (by rw [hp, hw]; rfl)

theorem noteDevice_of_settled (h : s.device.pending = false ∨ s.device.wait = true) : s.noteDevice = s := by
  refine if_neg fun hc => ?_
  obtain ⟨hp, hw⟩ := Bool.and_eq_true_iff.mp hc
  exact h.elim (fun h => Bool.false_ne_true (h.symm.trans hp)) fun h => by rw [h] at hw; cases hw

theorem noteDevice_of_pending (hp : s.device.pending = true) (hw : s.device.wait = false) :
    s.noteDevice = if s.roomNow then s.placeAlertNote else { s with device := { s.device with wait := true } } :=
  if_pos (by rw [hp, hw]; rfl)

end

/-- Settles O59: the job's NOTE and the device's, each with entries and without. -/
theorem waitingNoteIsPlaced : Obligations.WaitingNoteIsPlaced := by
  refine ⟨fun s j b hdue => ?_, fun s hphase hroom hturn => ⟨fun he => ?_, fun he => ?_⟩, fun x i n hi => ?_, freeEntries_eq,
    fun s j b hb => ⟨noteJob_of_settled (job?_of_slot s j hb), fun hp hw => ?_⟩,
    fun s => ⟨fun j hj => ?_, rfl, noteDevice_of_settled, fun hp hw => ?_⟩⟩
  · intro entries
    have hE : b.notices.entries eventBase = entries := entries_event b.notices
    obtain ⟨hphase, hroom, hturn, hb⟩ := hdue
    have hc : claimantSlot (⟨j.val, Nat.lt_succ_of_lt j.isLt⟩ : Fin 9) = some j := claimantSlot_of_val rfl
    have hempty := noteEmpty_iff_of_job hc (job?_of_slot s j hb)
    refine ⟨fun he => ⟨_, notePlace_placed hphase hroom hturn ?_, ?_⟩, fun he => ?_⟩
    · rw [hempty, hE]
      exact Bool.eq_false_iff.mpr fun h => he (List.isEmpty_iff.mp h)
    · rw [serveNote_of_job hc, served_of_job hc hb, placeJobNote_of_entries (job?_setJob_self ..) (hE ▸ he)]
      exact ⟨congrArg (fun x => s.store ++ [x]) (jobNote_eq j hE), _, job?_setJob_self .., rfl, rfl, rfl, rfl, rfl, rfl⟩
    · refine ⟨_, notePlace_served hphase hroom hturn, ?_⟩
      rw [serve_withdrawn (hempty.trans (List.isEmpty_iff.mpr (hE.trans he))), serveNote_of_job hc, placeJobNote_of_empty (job?_of_slot s j hb) (hE.trans he)]
      exact ⟨rfl, rfl, _, job?_setJob_self .., rfl, rfl, rfl⟩
  · refine ⟨_, notePlace_placed hphase hroom hturn (Bool.eq_false_iff.mpr fun h => he (List.isEmpty_iff.mp h)), ?_⟩
    rw [show (s.served 8 .notice).serveNote 8 = ({ s with lastClaimant := 8 } : State).placeAlertNote from rfl,
      placeAlertNote_of_entries (s := { s with lastClaimant := 8 }) he]
    exact ⟨rfl, rfl, rfl, rfl, rfl, rfl⟩
  · refine ⟨_, notePlace_served hphase hroom hturn, ?_⟩
    rw [serve_withdrawn (c := 8) (List.isEmpty_iff.mpr he), show s.serveNote 8 = s.placeAlertNote from rfl, placeAlertNote_of_empty he]
    exact ⟨rfl, rfl, rfl, rfl, rfl, rfl, rfl⟩
  · obtain ⟨h1, h2, h3, h4⟩ := report_counts x eventBase (n := n) hi
    rw [show eventBase + i = i from Nat.zero_add i] at h4
    exact ⟨h1, h2, h3, rfl, h4⟩
  · have hE := entries_event b.notices
    have hjob := job?_of_slot s j hb
    have hnote := noteJob_of_pending hjob hp hw
    refine ⟨fun hr => hnote.trans (if_neg fun h => hr (roomNow_iff.mp h)), fun hr he => ?_, fun hr he => ?_⟩
    all_goals refine (hnote.trans (if_pos (roomNow_iff.mpr hr))).trans ?_
    · exact placeJobNote_of_empty hjob (hE.trans he)
    · rw [placeJobNote_of_entries hjob (hE ▸ he), jobNote_eq j hE]
      rfl
  · rw [State.noteJob]
    cases hjob : s.job? j with
    | none => rfl
    | some b => exact absurd (slot_of_job? s j hjob) (hj b)
  · have hnote := noteDevice_of_pending hp hw
    refine ⟨fun hr => hnote.trans (if_neg fun h => hr (roomNow_iff.mp h)), fun hr he => ?_, fun hr he => ?_⟩
    all_goals refine (hnote.trans (if_pos (roomNow_iff.mpr hr))).trans ?_
    · exact placeAlertNote_of_empty he
    · exact placeAlertNote_of_entries he

end Sys2Proof.Machine
end

section
/-! PROOFS. CUE (R46 to R53). -/

namespace Sys2Proof.Machine

-- No section variable stands here: the option has Lean elaborate one proof after the other (see the byte facts above).
set_option deprecated.oldSectionVars true

/-! ### Tests in their order -/

/-- Three tests of a row: the answers they give, or what the rest of the row says. -/
theorem ite_steps {α β : Type} {P P' P'' : Prop} {d e : Decidable P} {d' e' : Decidable P'} {d'' e'' : Decidable P''}
    {a a₁ a₂ a₃ : α} {E : β → α} {x x' x'' y : β} {Q : Prop}
    (h : a = E (@ite _ P d x (@ite _ P' d' x' (@ite _ P'' d'' x'' y)))) (h₁ : E x = a₁) (h₂ : E x' = a₂) (h₃ : E x'' = a₃)
    (hq : a = E y → Q) : @ite _ P e (a = a₁) (@ite _ P' e' (a = a₂) (@ite _ P'' e'' (a = a₃) Q)) := by
  by_cases p : P
  · rw [if_pos p] at h ⊢
    exact h.trans h₁
  rw [if_neg p] at h ⊢
  by_cases p' : P'
  · rw [if_pos p'] at h ⊢
    exact h.trans h₂
  rw [if_neg p'] at h ⊢
  by_cases p'' : P''
  · rw [if_pos p''] at h ⊢
    exact h.trans h₃
  rw [if_neg p''] at h ⊢
  exact hq h

/-- What follows a value that two tests decide. -/
theorem bind_ite₂ {α β : Type} {P P' : Prop} {d : Decidable P} {d' : Decidable P'} {v x x' y : α} {F : α → β}
    (h : v = @ite _ P d x (@ite _ P' d' x' y)) : F v = @ite _ P d (F x) (@ite _ P' d' (F x') (F y)) := by
  rw [h, apply_ite F, apply_ite F]

theorem bind_ite₃ {α β : Type} {P P' P'' : Prop} {d : Decidable P} {d' : Decidable P'} {d'' : Decidable P''} {v x x' x'' y : α}
    {F : α → β} (h : v = @ite _ P d x (@ite _ P' d' x' (@ite _ P'' d'' x'' y))) :
    F v = @ite _ P d (F x) (@ite _ P' d' (F x') (@ite _ P'' d'' (F x'') (F y))) := by
  rw [h, apply_ite F, apply_ite F, apply_ite F]

/-- The answer a request's result gives. -/
noncomputable def Result.answered (k : Kind) (r : Req) (x : Result) : Answer := x.s.answered k r x.st x.fields

section
variable {s : State} {r : Req} {j : Fin 8} {b : Job} {k : Kind} {opened : Status} {wait : List Byte → Fin 8 → Job → State → Result}

theorem exec_running (hask : s.asked r j b) (hst : b.state = .running)
    (hhandle : handle (requestRecord k.code r) s =
      answer (requestRecord k.code r) (dataRequest k opened wait (requestRecord k.code r) s)) :
    exec (requestOf k r) s = (runData k r.body j b s).answered k r :=
  exec_of_running (u := (runData k r.body j b s).s) hask hst hhandle rfl

theorem exec_waiting (hask : s.asked r j b) (hst : b.state = .anchorWait)
    (hhandle : handle (requestRecord k.code r) s =
      answer (requestRecord k.code r) (dataRequest k opened wait (requestRecord k.code r) s)) :
    exec (requestOf k r) s = (wait r.body j b s).answered k r :=
  exec_of_anchorWait (u := (wait r.body j b s).s) hask hst hhandle rfl

end

/-! ### The body (R46, R196) -/

theorem laneTextOf_eq {bs : List Byte} {l : Nat} (h : bs.length = l) : laneTextOf bs = if l = 0 then none else some bs := by
  refine if_congr ?_ rfl rfl
  rw [List.isEmpty_iff, ← List.length_eq_zero_iff, h]

theorem textLen_laneTextOf (bs : List Byte) : textLen (laneTextOf bs) = bs.length := by cases bs <;> rfl

theorem ofCode_region (n : Nat) : Region.ofCode n = if n ≤ 1 then some (if n = 0 then .bottom else .top) else none := by
  match n with
  | 0 | 1 | _ + 2 => rfl

/-- What a body of CUE is read as. -/
noncomputable def cueFieldsOf (body : List Byte) (h : field body 0 1 < 16) : CueFields :=
  ⟨⟨field body 0 1, h⟩, field body 1 4, field body 5 4, field body 9 4, if field body 13 1 = 0 then .bottom else .top,
    (body.drop 17).take (field body 14 2), laneTextOf ((body.drop (17 + field body 14 2)).take (field body 16 1))⟩

theorem parseCue_eq {body : List Byte} (h : field body 0 1 < 16) : parseCue body =
    if field body 13 1 ≤ 1 then
      if (decide (body.length = 17 + field body 14 2 + field body 16 1) && (cueFieldsOf body h).valid) = true then
        some (cueFieldsOf body h) else none
    else none := by
  refine (dif_pos h).trans ?_
  rw [ofCode_region]
  by_cases hr : field body 13 1 ≤ 1
  · rw [if_pos hr, if_pos hr]
    rfl
  · rw [if_neg hr, if_neg hr]

theorem cueFieldsOf_valid {body : List Byte} {h : field body 0 1 < 16}
    (hlen : body.length = 17 + field body 14 2 + field body 16 1) : (cueFieldsOf body h).valid = true ↔
      field body 5 4 ≤ field body 9 4 ∧ (1 ≤ field body 14 2 ∧ field body 14 2 ≤ 480) ∧ field body 16 1 ≤ 122 := by
  have ht : ((body.drop 17).take (field body 14 2)).length = field body 14 2 := by
    rw [List.length_take, List.length_drop, hlen, Nat.add_assoc, Nat.add_sub_cancel_left]
    exact Nat.min_eq_left (Nat.le_add_right ..)
  have hl : textLen (laneTextOf ((body.drop (17 + field body 14 2)).take (field body 16 1))) = field body 16 1 := by
    rw [textLen_laneTextOf, List.length_take, List.length_drop, hlen, Nat.add_sub_cancel_left, Nat.min_self]
  refine and3_iff.trans (and_congr decide_eq_true_iff (and_congr within_iff decide_eq_true_iff)) |>.trans ?_
  dsimp only [cueFieldsOf]
  rw [ht, hl]

theorem parseCue_le {body : List Byte} {f : CueFields} (h : parseCue body = some f) : f.startMs ≤ f.endMs := by
  by_cases hn : field body 0 1 < 16
  · obtain ⟨-, h⟩ := Option.ite_none_right_eq_some.mp ((parseCue_eq hn).symm.trans h)
    obtain ⟨hv, hf⟩ := Option.ite_none_right_eq_some.mp h
    obtain ⟨-, hv⟩ := Bool.and_eq_true_iff.mp hv
    obtain ⟨hle, -⟩ := and3_iff.mp hv
    exact Option.some.inj hf ▸ of_decide_eq_true hle
  · cases (show parseCue body = none from dif_neg hn).symm.trans h

/-! ### Storing (R45, R47, R48, R54) -/

/-- The job after a CUE that is taken. -/
noncomputable def Job.withCue (b : Job) (f : CueFields) (t : TextTrack) (iv : Interval) : Job :=
  let c := cueOf f (b.keptLaneText t f.laneText) iv b.nextArrival
  (({ b with nextArrival := b.nextArrival + 1 }.storeCue f.track t c).reportIf (iv.clipped || iv.stretched || iv.clamped)
    .cueClipped).reportIf (b.onLane t && c.degraded) .laneTruncated

section
variable {s : State} {j : Fin 8} {b : Job} {body : List Byte} {f : CueFields} {t : TextTrack}

theorem cueRoom_eq (b : Job) (blocks cues free : Nat) : b.cueRoom blocks cues free =
    if b.cueQuota ≤ b.cueCount then some .quotaFull else if cues = 0 ∨ free < blocks then some .poolFull else none := rfl

theorem any_cue_id {l : List Cue} {id : Nat} : (l.any fun c => c.id == id) = true ↔ ∃ c ∈ l, c.id = id :=
  List.any_eq_true.trans (exists_congr fun _ => and_congr_right fun _ => beq_iff_eq)

theorem runCue_eq (hf : parseCue body = some f) (ht : b.text? f.track = some t) : runCue body j b s =
    if ∃ c ∈ t.cues, c.id = f.id then refuse .duplicate s
    else if f.endMs ≤ b.tb.anchor.getD 0 then refuse .late s
    else if b.tb.span ≤ b.tb.frameOf (f.startMs - b.tb.anchor.getD 0) then refuse .beyondSpan s
    else if (b.interval f.startMs f.endMs).endF ≤ b.w.getD 0 then refuse .late s
    else if b.cueQuota ≤ b.cueCount then refuse .quotaFull s
    else if s.freeCues = 0 ∨ s.freeBlocks < blocksOf f.text (b.keptLaneText t f.laneText) then refuseRoom .poolFull s
    else
      let iv := b.interval f.startMs f.endMs
      ⟨s.setJob j (b.withCue f t iv), iv.status, beBytes 4 iv.startF ++ beBytes 4 iv.endF ++ beBytes 1 iv.marks⟩ := by
  rw [runCue, hf]
  dsimp only
  rw [ht]
  dsimp only
  refine if_congr any_cue_id rfl ?_
  have hjudge := judgeCue_eq b (parseCue_le hf)
  generalize b.judgeCue f.startMs f.endMs = v at hjudge ⊢
  have hroom := cueRoom_eq b (blocksOf f.text (b.keptLaneText t f.laneText)) s.freeCues s.freeBlocks
  generalize b.cueRoom (blocksOf f.text (b.keptLaneText t f.laneText)) s.freeCues s.freeBlocks = o at hroom ⊢
  apply (bind_ite₃ (v := v) hjudge).trans
  refine if_congr Iff.rfl rfl (if_congr Iff.rfl rfl (if_congr Iff.rfl rfl ?_))
  apply (bind_ite₂ (v := o) hroom).trans
  rfl

theorem waitCue_eq (hf : parseCue body = some f) (ht : b.text? f.track = some t) : waitCue body j b s =
    if ∃ u ∈ b.untimed, u.isCueOf f.track f.id = true then refuse .duplicate s
    else if b.cueQuota ≤ b.cueCount then refuse .quotaFull s
    else if s.freeCues = 0 ∨ s.freeBlocks < blocksOf f.text (b.keptLaneText t f.laneText) then refuseRoom .poolFull s
    else ⟨s.setJob j { b with
      untimed := b.untimed ++ [.cue ⟨f.track, f.id, f.startMs, f.endMs, f.region, f.text, b.keptLaneText t f.laneText, b.nextArrival⟩],
      nextArrival := b.nextArrival + 1 }, .ok, []⟩ := by
  rw [waitCue, hf]
  dsimp only
  rw [ht]
  dsimp only
  refine if_congr List.any_eq_true rfl ?_
  have hroom := cueRoom_eq b (blocksOf f.text (b.keptLaneText t f.laneText)) s.freeCues s.freeBlocks
  generalize b.cueRoom (blocksOf f.text (b.keptLaneText t f.laneText)) s.freeCues s.freeBlocks = o at hroom ⊢
  apply (bind_ite₂ (v := o) hroom).trans
  rfl

end

/-- A job with other notices, and one that has given an arrival number. -/
noncomputable def Job.withNotices (b : Job) (n : Notices) : Job := { b with notices := n }

noncomputable def Job.arrived (b : Job) : Job := { b with nextArrival := b.nextArrival + 1 }

theorem reportIf_eq (c : Bool) (k : Event) (b : Job) :
    b.reportIf c k = b.withNotices (if c then b.notices.report eventBase k.code 1 else b.notices) := by
  cases c <;> rfl

/-- The lane state a cue is stored with. -/
theorem firstMark_eq (b : Job) (t : TextTrack) (c : Cue) :
    b.firstMark t c = if b.onLane t then (if c.rows b.laneSet = [] then LaneMark.done else .waiting) else .off :=
  if_congr Iff.rfl (if_congr List.isEmpty_iff rfl rfl) rfl

/-- A cue just judged has no consumer left when no segment needs it and its caption, if any, has no row. -/
theorem retired_first_iff (b : Job) (t : TextTrack) (c : Cue) :
    b.retired t { c with lane := b.firstMark t c } = true ↔
      (t.segOut = false ∨ c.endF ≤ b.seg.emitted) ∧ (b.onLane t = false ∨ b.firstMark t c = .done) := by
  refine Bool.and_eq_true_iff.trans (and_congr (Bool.or_eq_true_iff.trans (or_congr ?_ decide_eq_true_iff)) ?_)
  · cases t.segOut <;> decide
  · rw [firstMark_eq]
    generalize b.onLane t = l
    by_cases h : c.rows b.laneSet = [] <;> cases l <;> simp [h]

theorem storeCue_keeps {b : Job} {i : Fin 16} {t : TextTrack} (ht : b.text? i = some t) (c : Cue) {m : LaneMark}
    (hm : b.firstMark t c = m) :
    (∀ k, k ≠ i → (b.storeCue i t c).track k = b.track k) ∧
    (b.storeCue i t c).track i = some (.text (if (t.segOut = false ∨ c.endF ≤ b.seg.emitted) ∧
      (b.onLane t = false ∨ m = .done) then t else { t with cues := insertCue { c with lane := m } t.cues })) ∧
    { b.storeCue i t c with tracks := b.tracks } = b := by
  have hret := retired_first_iff b t c
  unfold Job.storeCue
  dsimp only
  rw [hm] at hret ⊢
  by_cases h : b.retired t { c with lane := m } = true
  · rw [if_pos h, if_pos (hret.mp h)]
    exact ⟨fun _ _ => rfl, Job.track_of_text? ht, rfl⟩
  · rw [if_neg h, if_neg fun hc => h (hret.mpr hc)]
    exact ⟨fun k hk => track_setTrack_ne b _ hk, track_setTrack_self .., rfl⟩

/-- A CUE that is taken changes the arrival number, its track and the counts. -/
theorem withCue_keeps {b : Job} {f : CueFields} {t : TextTrack} (ht : b.text? f.track = some t) (iv : Interval) {c : Cue}
    {m : LaneMark} (hc : cueOf f (b.keptLaneText t f.laneText) iv b.nextArrival = c) (hm : b.firstMark t c = m) :
    (b.withCue f t iv).nextArrival = b.nextArrival + 1 ∧
    (∀ k, k ≠ f.track → (b.withCue f t iv).track k = b.track k) ∧
    (b.withCue f t iv).track f.track = some (.text (if (t.segOut = false ∨ c.endF ≤ b.seg.emitted) ∧
      (b.onLane t = false ∨ m = .done) then t else { t with cues := insertCue { c with lane := m } t.cues })) ∧
    (b.withCue f t iv).notices =
      (let n := if iv.clipped || iv.stretched || iv.clamped then b.notices.report eventBase 0 1 else b.notices
       if b.onLane t && c.degraded then n.report eventBase 3 1 else n) ∧
    { b.withCue f t iv with nextArrival := b.nextArrival, tracks := b.tracks, notices := b.notices } = b := by
  subst hc
  obtain ⟨hother, htrack, hkeep⟩ := storeCue_keeps (b := b.arrived) ht _ hm
  generalize hx : b.arrived.storeCue f.track t (cueOf f (b.keptLaneText t f.laneText) iv b.nextArrival) = x at hother htrack hkeep
  have hy : b.withCue f t iv = _ :=
    (reportIf_eq ..).trans (congrArg (fun y : Job => y.withNotices (if (b.onLane t && _) = true then
      y.notices.report eventBase 3 1 else y.notices)) ((congrArg (Job.reportIf _ _) hx).trans (reportIf_eq _ _ x)))
  refine ⟨(congrArg Job.nextArrival hy).trans (congrArg Job.nextArrival hkeep),
    fun k hk => (congrArg (Job.track · k) hy).trans (hother k hk), (congrArg (Job.track · f.track) hy).trans htrack,
    (congrArg Job.notices hy).trans ?_,
    (congrArg (fun x => { x with nextArrival := b.nextArrival, tracks := b.tracks, notices := b.notices }) hy).trans
      (congrArg (fun x => { x with nextArrival := b.nextArrival, notices := b.notices }) hkeep)⟩
  have hn := congrArg Job.notices hkeep
  rw [← show x.notices = b.notices from hn]
  rfl

theorem parseCue_of_invalid {body : List Byte} (hno : ¬(body.length = 17 + field body 14 2 + field body 16 1 ∧
    field body 0 1 ≤ 15 ∧ field body 13 1 ≤ 1 ∧ field body 5 4 ≤ field body 9 4 ∧ 1 ≤ field body 14 2 ∧ field body 14 2 ≤ 480 ∧
    field body 16 1 ≤ 122)) : parseCue body = none := by
  by_cases hn : field body 0 1 < 16
  · refine Option.eq_none_iff_forall_ne_some.mpr fun f hf => hno ?_
    obtain ⟨hreg, h⟩ := Option.ite_none_right_eq_some.mp ((parseCue_eq hn).symm.trans hf)
    obtain ⟨hv, -⟩ := Option.ite_none_right_eq_some.mp h
    obtain ⟨hlen, hv⟩ := Bool.and_eq_true_iff.mp hv
    obtain ⟨hle, ⟨ht1, ht2⟩, hl⟩ := (cueFieldsOf_valid (of_decide_eq_true hlen)).mp hv
    exact ⟨of_decide_eq_true hlen, Nat.le_of_lt_succ hn, hreg, hle, ht1, ht2, hl⟩
  · exact dif_neg hn

theorem parseCue_of_valid {body : List Byte} (hlen : body.length = 17 + field body 14 2 + field body 16 1)
    (hn : field body 0 1 < 16) (hreg : field body 13 1 ≤ 1) (hle : field body 5 4 ≤ field body 9 4)
    (ht : 1 ≤ field body 14 2 ∧ field body 14 2 ≤ 480) (hl : field body 16 1 ≤ 122) : parseCue body =
      some { cueFieldsOf body hn with
        laneText := if field body 16 1 = 0 then none
          else some ((body.drop (17 + field body 14 2)).take (field body 16 1)) } := by
  refine (parseCue_eq hn).trans ((if_pos hreg).trans ((if_pos (Bool.and_eq_true_iff.mpr ⟨decide_eq_true hlen,
    (cueFieldsOf_valid hlen).mpr ⟨hle, ht, hl⟩⟩)).trans
      (congrArg (fun x => some { cueFieldsOf body hn with laneText := x }) (laneTextOf_eq ?_))))
  rw [List.length_take, List.length_drop, hlen, Nat.add_sub_cancel_left, Nat.min_self]

section
variable {s : State} {r : Req} {j : Fin 8} {b : Job}

theorem exec_cue_none (hask : s.asked r j b) (hst : b.state = .running ∨ b.state = .anchorWait) (h : parseCue r.body = none) :
    exec (.cue r) s = s.answered .cue r .badField [] :=
  exec_of_refused (k := .cue) hask hst (handle_cue r s) (runCue_of_bad_body h j b s).1 (runCue_of_bad_body h j b s).2

theorem exec_cue_noTrack (hask : s.asked r j b) (hst : b.state = .running ∨ b.state = .anchorWait) {f : CueFields}
    (hf : parseCue r.body = some f) (hnone : b.text? f.track = none) : exec (.cue r) s = s.answered .cue r .badTrack [] := by
  refine exec_of_refused (k := .cue) hask hst (handle_cue r s) ?_ ?_
  · show runCue r.body j b s = _
    rw [runCue, hf]
    dsimp only
    rw [hnone]
  · rw [waitCue, hf]
    dsimp only
    rw [hnone]

end

/-- Settles O33: the body, the row of tests at a RUNNING job and in ANCHOR_WAIT, and the list a cue joins. -/
theorem cueIsStored : Obligations.CueIsStored := by
  refine ⟨fun s r j b hask hst => ⟨?_, exec_cue_none hask hst, fun f hf => ⟨exec_cue_noTrack hask hst hf, fun t ht => ?_⟩⟩,
    fun c cues => ?_⟩
  · intro t l valid
    refine ⟨fun hno => exec_cue_none hask hst (parseCue_of_invalid hno), fun h => ?_⟩
    obtain ⟨hlen, hn, hreg, hle, ht1, ht2, hl⟩ := h
    exact ⟨⟨field r.body 0 1, Nat.lt_succ_of_le hn⟩, rfl, parseCue_of_valid hlen _ hreg hle ⟨ht1, ht2⟩ hl⟩
  · intro kept room
    refine ⟨fun hrun => ?_, fun hwait => ?_⟩
    · intro a w f0 f1 fe clipped stretched clamped c0 mark unread
      exact ite_steps ((exec_running (k := .cue) hask hrun (handle_cue r s)).trans
        (congrArg (Result.answered .cue r) (runCue_eq hf ht))) rfl rfl rfl fun h => ite_steps h rfl rfl rfl fun h =>
        ⟨_, h, withCue_keeps ht _ rfl (firstMark_eq ..)⟩
    · exact ite_steps ((exec_waiting (k := .cue) hask hwait (handle_cue r s)).trans
        (congrArg (Result.answered .cue r) (waitCue_eq hf ht))) rfl rfl rfl fun h => h
  · obtain ⟨pre, post, rfl, hins, hpre, hpost⟩ := inserted Cue.startF c (ins := insertCue c) rfl (fun _ _ => rfl) cues
    exact ⟨pre, post, rfl, hins, hpre, hpost, fun hord => hins ▸ ordered_between hpre hpost hord⟩

end Sys2Proof.Machine
end

section
/-! PROOFS. ABRT (R37, R38, R106, R169). -/

namespace Sys2Proof.Machine

-- No section variable stands here: the option has Lean elaborate one proof after the other (see the byte facts above).
set_option deprecated.oldSectionVars true

/-! ### The reset frames (R106) -/

theorem isSome_serviceTrack (b : Job) (sv : Nat) : (b.serviceTrack sv).isSome =
    (b.laneSet.enabled && trackNumbers.any fun i => (b.text? i).any fun t => t.service == sv) := by
  rw [Job.serviceTrack, Job.textTracks]
  cases b.laneSet.enabled with
  | false => rfl
  | true =>
    refine (Bool.eq_iff_iff.mpr (List.find?_isSome.trans List.any_eq_true.symm)).trans (List.any_filterMap.trans ?_)
    refine (congrArg (List.any trackNumbers) (funext fun i => ?_)).trans (Bool.true_and _).symm
    cases b.text? i <;> rfl

theorem servicesInUse_eq (b : Job) : b.servicesInUse = [1, 2, 3, 4].filter fun sv => b.laneSet.enabled &&
    trackNumbers.any fun i => (b.text? i).any fun t => t.service == sv :=
  congrArg (List.filter · _) (funext (isSome_serviceTrack b))

theorem enabled_of_servicesInUse {b : Job} (h : b.servicesInUse ≠ []) : b.laneSet.enabled = true := by
  obtain ⟨sv, hsv⟩ := List.exists_mem_of_ne_nil _ h
  exact (Bool.and_eq_true_iff.mp ((isSome_serviceTrack b sv).symm.trans (List.mem_filter.mp hsv).2)).1

theorem resets_needed_iff (b : Job) : (b.laneSet.enabled && decide (1 ≤ b.lane.next) && !b.lane.closed &&
    !b.servicesInUse.isEmpty && b.state != .done) = true ↔
      ¬(b.servicesInUse = [] ∨ b.lane.next = 0 ∨ b.lane.closed = true ∨ b.state = .done) := by
  rw [not_or, not_or, not_or, and5_iff]
  constructor
  · intro h
    obtain ⟨-, hn, hc, hu, hd⟩ := h
    refine ⟨fun h => ?_, Nat.ne_of_gt (of_decide_eq_true hn), fun h => ?_, bne_iff_ne.mp hd⟩
    · rw [h] at hu
      exact Bool.false_ne_true hu
    · rw [h] at hc
      exact Bool.false_ne_true hc
  · intro h
    obtain ⟨hu, hn, hc, hd⟩ := h
    refine ⟨enabled_of_servicesInUse hu, decide_eq_true (Nat.pos_of_ne_zero hn), ?_, ?_, bne_iff_ne.mpr hd⟩
    · rw [Bool.eq_false_iff.mpr hc]
      rfl
    · rw [Bool.eq_false_iff.mpr fun h => hu (List.isEmpty_iff.mp h)]
      rfl

theorem resetFlight_eq_none {j : Fin 8} {b : Job} : b.resetFlight j = none ↔
    b.servicesInUse = [] ∨ b.lane.next = 0 ∨ b.lane.closed = true ∨ b.state = .done :=
  (ite_eq_right_iff.trans ⟨fun h hp => Option.some_ne_none _ (h hp), fun h hp => absurd hp h⟩).trans
    ((not_congr (resets_needed_iff b)).trans not_not)

theorem resetPairs_eq {us : List Nat} (h : ∀ sv ∈ us, 1 ≤ sv) (slots : Nat) :
    padded slots (us.map fun sv => controlPair sv cRESET) = (us.map fun sv => (BitVec.ofNat 8 (0x0F + sv), 0x43#8)) ++
      List.replicate (ceilDiv us.length slots * slots - us.length) (0x00#8, 0x00#8) := by
  rw [padded, List.length_map]
  exact congrArg (· ++ _) (List.map_congr_left fun sv hsv => congrArg (fun n => (BitVec.ofNat 8 n, cRESET))
    ((Nat.add_assoc 15 1 (sv - 1)).trans (congrArg (15 + ·) (Nat.add_sub_cancel' (h sv hsv)))))

theorem resetFlight_some {j : Fin 8} {b : Job} {fl : LaneFlight} (h : b.resetFlight j = some fl) :
    fl.kind = .reset ∧ fl.frames = ceilDiv b.servicesInUse.length b.laneSet.slots ∧
    fl.record = laneRecord j b.laneSet .reset b.lane.next (ceilDiv b.servicesInUse.length b.laneSet.slots)
      ((b.servicesInUse.map fun sv => (BitVec.ofNat 8 (0x0F + sv), 0x43#8)) ++ List.replicate
        (ceilDiv b.servicesInUse.length b.laneSet.slots * b.laneSet.slots - b.servicesInUse.length) (0x00#8, 0x00#8)) := by
  obtain ⟨-, h⟩ := Option.ite_none_right_eq_some.mp h
  obtain rfl := Option.some.inj h
  refine ⟨rfl, rfl, congrArg (laneRecord j b.laneSet .reset b.lane.next
    (ceilDiv b.servicesInUse.length b.laneSet.slots)) (resetPairs_eq (fun sv hsv => ?_) _)⟩
  have hmem : sv ∈ [1, 2, 3, 4] := List.mem_of_mem_filter hsv
  rcases hmem with _ | ⟨_, _ | ⟨_, _ | ⟨_, _ | ⟨_, ⟨⟩⟩⟩⟩⟩ <;> decide

/-! ### The end of a park (R169) -/

theorem finishReply_eq {j : Fin 8} {st : Status} {fs bs : List Byte} {e : OutEntry}
    (h : e.record.body.take 1 ++ st.code :: fs = bs) : finishReply j st fs e =
      if e.unfinished = true ∧ e.owner = some j then
        { e with unfinished := false, owner := none, record := { e.record with body := bs } }
      else e :=
  if_congr (Bool.and_eq_true_iff.trans (and_congr_right' beq_iff_eq))
    (congrArg (fun x => { e with unfinished := false, owner := none, record := { e.record with body := x } }) h) rfl

theorem append_five (x a b c d e : List Byte) : x ++ (a ++ (b ++ c ++ d ++ e)) = x ++ a ++ b ++ c ++ d ++ e := by
  rw [← List.append_assoc, ← List.append_assoc, ← List.append_assoc, ← List.append_assoc]

/-! ### Room for the reset frames (R182) -/

/-- Whether a claimant waits depends on the jobs' turns, not on the store. -/
theorem anyWaiting_congr {s t : State} (hl : t.lastClaimant = s.lastClaimant) (hd : t.device = s.device)
    (hs : ∀ j, t.slot j = s.slot j ∨ ∃ b c, s.slot j = .job b ∧ t.slot j = .job c ∧ c.turn = b.turn) :
    t.anyWaiting = s.anyWaiting := by
  have hturn : t.claimantTurn = s.claimantTurn := by
    funext c
    unfold State.claimantTurn
    cases claimantSlot c with
    | none => dsimp only; rw [hd]
    | some j =>
      dsimp only
      obtain h | ⟨b, c, hb, hc, hbc⟩ := hs j
      · rw [h]
      · rw [hb, hc]
        exact hbc
  unfold State.anyWaiting State.turn
  rw [hturn, hl]

theorem placeLane_of_reset {s : State} {j : Fin 8} {b : Job} {fl : LaneFlight} {w : AbortWait} (hb : s.slot j = .job b)
    (hfl : b.lane.flight = some fl) (hk : fl.kind = .reset) (hw : s.abort = some w) :
    s.placeLane j = (s.placeOutput j fl.record false).finishAbort w := by
  unfold State.placeLane
  rw [job?_of_slot s j hb]
  dsimp only
  rw [hfl]
  dsimp only
  rw [hk, hw]

theorem abort_of_ready {s : State} (h : s.ready = true) : s.abort = none := by
  obtain ⟨hq, -, -⟩ := ready_iff.mp h
  obtain ⟨-, -, -, hab, -⟩ := quiet_iff.mp hq
  exact hab

theorem freeSlot_setJob (s : State) (j : Fin 8) (b : Job) : (s.setJob j b).freeSlot j = s.freeSlot j :=
  congrArg (fun u : State => ({ u with store := s.store.map (disownEntry j), tx := s.tx.map fun t =>
    { t with entry := disownEntry j t.entry } } : State)) (setSlot_setSlot s j _ _)

section
variable {s : State} {r : Req} {j : Fin 8} {b : Job}

theorem exec_abrt_job (hready : s.ready = true) (hj : slotOf r.job = some j) (hbody : r.body = []) (hb : s.slot j = .job b) :
    exec (.abrt r) s = .next (abortJob (requestRecord Kind.abrt.code r) j b s).after := by
  refine (exec_requestOf_ready hready .abrt r).trans (congrArg (fun u : State => Host.Outcome.next u.after) ?_)
  rw [handle_abrt, takeAbrt, show slotOf (requestRecord Kind.abrt.code r).job = some j from hj]
  dsimp only
  rw [hb]
  dsimp only
  rw [show parseEmpty (requestRecord Kind.abrt.code r).body = some () from congrArg parseEmpty hbody]

theorem exec_abrt_restoring (hready : s.ready = true) (hj : slotOf r.job = some j) (hbody : r.body = []) {a : Assembly}
    (hb : s.slot j = .restoring a) : exec (.abrt r) s = (s.freeSlot j).answered .abrt r .ok [7#8, 0#8] := by
  refine (exec_requestOf_ready hready .abrt r).trans (congrArg (fun u : State => Host.Outcome.next u.after) ?_)
  rw [handle_abrt, takeAbrt, show slotOf (requestRecord Kind.abrt.code r).job = some j from hj]
  dsimp only
  rw [hb]
  dsimp only
  rw [show parseEmpty (requestRecord Kind.abrt.code r).body = some () from congrArg parseEmpty hbody]
  rfl

/-- The end of an abort whose request is answered now. -/
theorem finishAbort_eq {u v : State} {w : AbortWait} (h : u.freeSlot w.slot = { v with abort := u.abort }) (hv : v.abort = none) :
    u.finishAbort w = v.reply w.request .ok (beBytes 1 w.was.code ++ beBytes 1 w.discarded) := by
  rw [State.finishAbort, h]
  exact congrArg (fun a => ({ v with abort := a } : State).reply w.request .ok
    (beBytes 1 w.was.code ++ beBytes 1 w.discarded)) hv.symm

theorem abortPark_frame (s : State) (j : Fin 8) (b : Job) : { s.abortPark j b with store := s.store } = s ∧
    (s.abortPark j b).store.length = s.store.length ∧ (s.abortPark j b).tx = s.tx ∧ (s.abortPark j b).abort = s.abort ∧
    (s.abortPark j b).lastClaimant = s.lastClaimant ∧ (s.abortPark j b).device = s.device ∧
    (s.abortPark j b).slots = s.slots := by
  unfold State.abortPark
  cases b.park with
  | none => exact ⟨rfl, rfl, rfl, rfl, rfl, rfl, rfl⟩
  | some p => exact ⟨rfl, List.length_map _, rfl, rfl, rfl, rfl, rfl⟩

end

section
variable {s : State} {r : LinkRecord} {j : Fin 8} {b : Job}

theorem abortJob_none (h : b.resetFlight j = none) :
    abortJob r j b s = (s.abortPark j b).finishAbort ⟨j, r, b.state, b.latch.length⟩ := by
  unfold abortJob
  rw [h]

/-- The aborted job with its reset frames in flight, and with them waiting. -/
noncomputable def Job.resetting (b : Job) (fl : LaneFlight) : Job :=
  { b.stopped with lane := { b.stopped.lane with flight := some fl } }

noncomputable def Job.resetWaits (b : Job) (fl : LaneFlight) : Job :=
  ({ b.stopped with lane := { b.stopped.lane with flight := some fl, wait := true } } : Job).report .outputStalled 1

/-- The part with the reset frames of its aborted job in flight. -/
noncomputable def State.resetting (s : State) (r : LinkRecord) (j : Fin 8) (b : Job) (fl : LaneFlight) : State :=
  { (s.abortPark j b).setJob j (b.resetting fl) with abort := some ⟨j, r, b.state, b.latch.length⟩ }

theorem turn_resetting (b : Job) (fl : LaneFlight) :
    ({ b with seg := { b.seg with flight := none, wait := false }, lane := { b.lane with flight := none, wait := false },
              park := none } : Job).turn = (b.resetting fl).turn :=
  congrArg (List.find? · b.lastProducer.after) (funext fun p => by cases p <;> rfl)

theorem abortJob_some {fl : LaneFlight} (h : b.resetFlight j = some fl) :
    abortJob r j b s = if (s.resetting r j b fl).roomNow then (s.resetting r j b fl).placeLane j
      else { (s.abortPark j b).setJob j (b.resetWaits fl) with abort := some ⟨j, r, b.state, b.latch.length⟩ } := by
  unfold abortJob
  rw [h]
  refine (show State.pumpLane j 1 (s.resetting r j b fl) = _ from ?_)
  unfold State.pumpLane
  rw [show (s.resetting r j b fl).job? j = some _ from job?_of_slot _ _ (slot_setJob_self ..)]
  have hstall : (b.resetting fl).countStall { b.resetting fl with lane := { (b.resetting fl).lane with wait := true } } =
    b.resetWaits fl := rfl
  refine (if_neg (c := (b.resetting fl).lane.wait = true) Bool.false_ne_true).trans ?_
  exact if_congr Iff.rfl rfl ((congrArg (State.setJob j · (s.resetting r j b fl)) hstall).trans
    (congrArg (fun u : State => ({ u with abort := some ⟨j, r, b.state, b.latch.length⟩ } : State))
      (setJob_setJob (s.abortPark j b) j (b.resetting fl) (b.resetWaits fl))))

theorem freeSlot_placeOutput (u : State) (j : Fin 8) (b' : Job) (w : AbortWait) (rec : LinkRecord) :
    (({ u.setJob j b' with abort := some w } : State).placeOutput j rec false).freeSlot j =
      { (u.placeOutput j rec false).freeSlot j with abort := some w } :=
  congrArg (fun v : State => ({ v with abort := some w } : State)) (freeSlot_setJob (u.placeOutput j rec false) j b')

theorem placeLane_resetting {fl : LaneFlight} (hk : fl.kind = .reset) (hv : (s.abortPark j b).abort = none) :
    (s.resetting r j b fl).placeLane j =
      (((s.abortPark j b).placeOutput j fl.record false).freeSlot j).reply r .ok (beBytes 1 b.state.code ++ beBytes 1 b.latch.length) :=
  (placeLane_of_reset (s := s.resetting r j b fl) (w := ⟨j, r, b.state, b.latch.length⟩)
    (slot_setJob_self (s.abortPark j b) j (b.resetting fl)) rfl hk rfl).trans
    (finishAbort_eq (v := ((s.abortPark j b).placeOutput j fl.record false).freeSlot j) (freeSlot_placeOutput _ j _ ⟨j, r, b.state, b.latch.length⟩ fl.record) hv)

theorem resetting_roomNow {fl : LaneFlight} {b' : Job} (h : b'.turn = (b.resetting fl).turn) : (s.resetting r j b fl).roomNow = true ↔
      8 < s.freeEntries ∧ (s.setJob j b').anyWaiting = false := by
  obtain ⟨-, hlen, htx, -, hlast, hdev, hslots⟩ := abortPark_frame s j b
  have hfree : (s.resetting r j b fl).freeEntries = s.freeEntries := by
    unfold State.freeEntries State.used
    rw [show (s.resetting r j b fl).store.length = s.store.length from hlen, show (s.resetting r j b fl).tx = s.tx from htx]
  have hwait : (s.resetting r j b fl).anyWaiting = (s.setJob j b').anyWaiting := by
    refine anyWaiting_congr hlast hdev fun k => ?_
    by_cases hk : k = j
    · subst hk
      exact .inr ⟨_, _, slot_setJob_self .., slot_setJob_self .., h.symm⟩
    · exact .inl ((slot_setJob_ne _ _ _ _ hk).trans ((slot_congr hslots k).trans
        (slot_setJob_ne _ _ _ _ hk).symm))
  rw [State.roomNow, hfree, hwait]
  exact Bool.and_eq_true_iff.trans (and_congr decide_eq_true_iff (Bool.not_eq_true' _).to_iff)

end

/-- Settles O29: the reset frames, the park's end, and the abort without, with and before its reset frames. -/
theorem abrtEndsJob : Obligations.AbrtEndsJob := by
  refine ⟨fun j b => ?_, fun s j b => ⟨fun h => ?_, fun p h => ⟨(abortPark_frame s j b).1, ?_⟩⟩, fun s r j hready hj hbody =>
    ⟨fun a ha => exec_abrt_restoring hready hj hbody ha, fun b hb => ?_⟩⟩
  · rw [← servicesInUse_eq]
    exact ⟨resetFlight_eq_none, fun fl h => resetFlight_some h⟩
  · unfold State.abortPark
    rw [h]
  · unfold State.abortPark
    rw [h]
    exact List.map_congr_left fun e _ => finishReply_eq (append_five _ [31#8] _ _ _ _)
  · intro s1 fields waiting
    have habort : s1.abort = none := by
      obtain ⟨-, -, -, h, -⟩ := abortPark_frame s j b
      exact h.trans (abort_of_ready hready)
    have hanswer : ∀ {u v : State}, abortJob (requestRecord Kind.abrt.code r) j b s = u → u = v →
        exec (.abrt r) s = .next v.after := fun hu huv =>
      (exec_abrt_job hready hj hbody hb).trans (congrArg (fun u : State => Host.Outcome.next u.after) (hu.trans huv))
    refine ⟨fun hnone => hanswer (abortJob_none hnone) (finishAbort_eq rfl habort), fun fl hfl => ⟨fun hroom hwait => ?_,
      fun hno => ?_⟩⟩
    · refine hanswer ((abortJob_some hfl).trans (if_pos ((resetting_roomNow (turn_resetting b fl)).mpr ⟨hroom, hwait⟩))) ?_
      exact placeLane_resetting (resetFlight_some hfl).1 habort
    · refine ⟨_, hanswer ((abortJob_some hfl).trans (if_neg fun h => ?_)) rfl, rfl, rfl, rfl, rfl, rfl, rfl⟩
      obtain ⟨hroom, hwait⟩ := (resetting_roomNow (turn_resetting b fl)).mp h
      exact hno.elim (Nat.not_le.mpr hroom) fun h => Bool.false_ne_true (hwait.symm.trans h)

end Sys2Proof.Machine
end

section
/-! PROOFS. RSUM (R32, R33): a data record handled by a RUNNING job leaves it RUNNING and every other slot alone. -/

namespace Sys2Proof.Machine

-- No section variable stands here: the option has Lean elaborate one proof after the other (see the byte facts above).
set_option deprecated.oldSectionVars true

/-- Job c runs as job b does: what a data record leaves as it was. -/
def Job.RunsAs (b c : Job) : Prop := c.state = .running ∧ c.tb = b.tb ∧ c.latch = b.latch

/-- The part u is s but for slot j, which runs as job b, for the store, the transmitter and the device's counts. -/
def State.Serves (s : State) (j : Fin 8) (b : Job) (u : State) : Prop :=
  u.abort = none ∧ u.parkSerial = s.parkSerial ∧ ∃ c : Job, u.slots = (s.setJob j c).slots ∧ b.RunsAs c

section
variable {s u : State} {j : Fin 8} {b c d : Job}

theorem serves_setJob (h : s.abort = none) (hc : b.RunsAs c) : s.Serves j b (s.setJob j c) := ⟨h, rfl, c, rfl, hc⟩

theorem State.Serves.set (h : s.Serves j b u) (hc : b.RunsAs c) : s.Serves j b (u.setJob j c) := by
  obtain ⟨habort, hserial, d, hslots, -⟩ := h
  refine ⟨habort, hserial, c, ?_, hc⟩
  exact (congrArg (fun v => (({ s with slots := v } : State).setJob j c).slots) hslots).trans
    (congrArg State.slots (setJob_setJob s j d c))

theorem State.Serves.slot (h : s.Serves j b u) : ∃ c, u.slot j = .job c ∧ b.RunsAs c := by
  obtain ⟨-, -, c, hslots, hc⟩ := h
  exact ⟨c, (slot_congr hslots j).trans (slot_setJob_self s j c), hc⟩

theorem State.Serves.job (h : s.Serves j b u) :
    ∃ c, u.job? j = some c ∧ c.state = .running ∧ c.latch = b.latch ∧ c.tb = b.tb := by
  obtain ⟨c, hc, hs, htb, hl⟩ := h.slot
  exact ⟨c, job?_of_slot u j hc, hs, hl, htb⟩

theorem State.Serves.other (h : s.Serves j b u) {k : Fin 8} (hk : k ≠ j) : u.slot k = s.slot k := by
  obtain ⟨-, -, c, hslots, -⟩ := h
  exact (slot_congr hslots k).trans (slot_setJob_ne _ _ _ _ hk)

theorem State.Serves.serial (h : s.Serves j b u) : u.parkSerial = s.parkSerial := h.2.1

theorem State.Serves.runsAs (h : s.Serves j b u) (hc : u.job? j = some c) : b.RunsAs c := by
  obtain ⟨d, hd, hrun⟩ := h.slot
  cases (slot_of_job? u j hc).symm.trans hd
  exact hrun

theorem Job.RunsAs.works (h : b.RunsAs c) (hw : c.Works d) : b.RunsAs d := by
  obtain ⟨hs, htb, hl⟩ := h
  obtain ⟨ks, ktb, -, kl⟩ := hw.keeps_run
  exact ⟨ks.trans hs, ktb.trans htb, kl.trans hl⟩

theorem Job.RunsAs.raiseW (h : b.RunsAs c) (w : Nat) : b.RunsAs (c.raiseW w) :=
  Job.RunsAs.works (c := { c with w := some w }) h (Job.testTails_works _)

theorem placeSegment_serves (h : s.Serves j b u) : s.Serves j b (u.placeSegment j) := by
  obtain ⟨c, hc, hrun⟩ := h.slot
  rcases placeSegment_of_running hc hrun.1 with he | ⟨rec, -, he⟩ <;> rw [he]
  · exact h
  · exact State.Serves.set (u := u.placeOutput j rec false) h (hrun.works (Job.segmentPlaced_works (ne_holding hrun.1)))

theorem placeLane_serves (h : s.Serves j b u) : s.Serves j b (u.placeLane j) := by
  obtain ⟨c, hc, hrun⟩ := h.slot
  rcases placeLane_of_running hc hrun.1 with he | ⟨w, fl, hw, -⟩ | ⟨fl, -, he⟩
  · rw [he]
    exact h
  · exact absurd (h.1.symm.trans hw) nofun
  · rw [he]
    exact State.Serves.set (u := u.placeOutput j fl.record false) h (hrun.works (c.completeLane_works fl))

theorem pumpSegments_serves (h : s.Serves j b u) (n : Nat) : s.Serves j b (u.pumpSegments j n) :=
  pumpSegments_keeps (P := s.Serves j b) (fun _ c hu hc => hu.set (c := c.beginSegment j) (show b.RunsAs c from hu.runsAs hc)) (fun _ hu _ => placeSegment_serves hu)
    (fun _ _ hu hc => hu.set ((hu.runsAs hc).works (countStall_keeps Job.Work.segmentWaits.works))) n u h

theorem pumpLane_serves (h : s.Serves j b u) (n : Nat) : s.Serves j b (u.pumpLane j n) := by
  refine pumpLane_keeps (P := s.Serves j b) (fun _ c hu hc => hu.set ((hu.runsAs hc).works (c.lane_works _)))
    (fun v c hu hc => ?_) (fun _ hu _ => placeLane_serves hu)
    (fun _ c hu hc => hu.set ((hu.runsAs hc).works (countStall_keeps (c.lane_works _)))) n u h
  have hrun := (hu.runsAs hc).works (c.closeLane_works j)
  rw [doneTest_setJob_of_running hrun.1]
  exact hu.set hrun

theorem pump_serves (h : s.Serves j b u) : s.Serves j b (u.pump j) := pumpLane_serves (pumpSegments_serves h _) _

theorem DataOutcome.serves {x : Result} (h : DataOutcome u j c x) (hu : s.Serves j b u) (hc : u.slot j = .job c) :
    s.Serves j b x.s := by
  rcases h with ⟨h, -⟩ | ⟨h, -⟩ | ⟨-, d, h, -, hs, htb, -, hl⟩ <;> rw [h]
  · exact hu
  · exact hu
  · obtain ⟨ks, ktb, kl⟩ := hu.runsAs (job?_of_slot u j hc)
    exact hu.set ⟨hs.trans ks, htb.trans ktb, hl.trans kl⟩

/-- What a data record comes to: as of every kind but ADV, the Segmenter perhaps tested then, or as of ADV. -/
def DataEnd (s : State) (j : Fin 8) (b : Job) (y : Result) : Prop :=
  DataOutcome s j b y ∨
  (∃ x, DataOutcome s j b x ∧ y.st.refuses = false ∧ y.s = x.s.pumpSegments j pumpFuel) ∨
  ∃ w, y.st.refuses = false ∧ y.s = (s.setJob j (b.raiseW w)).pump j

theorem thenPump_ends (hb : s.slot j = .job b) {x : Result} (h : DataOutcome s j b x) : DataEnd s j b (thenPump j b x) := by
  rcases thenPump_cases hb h with he | ⟨hst, he⟩ <;> rw [he]
  · exact .inl h
  · exact .inr (.inl ⟨x, h, hst, rfl⟩)

theorem runAdv_ends (body : List Byte) : DataEnd s j b (runAdv body j b s) := by
  rw [runAdv]
  cases parseWord body with
  | none => exact .inl (.refused rfl)
  | some n =>
    refine iteInduction (motive := DataEnd s j b) (fun _ => .inl (.refused rfl)) fun _ => .inr (.inr ⟨_, ?_, rfl⟩)
    exact iteInduction (motive := fun st : Status => st.refuses = false) (fun _ => rfl) fun _ => rfl

theorem runData_ends (hb : s.slot j = .job b) (k : Kind) (body : List Byte) : DataEnd s j b (runData k body j b s) := by
  cases k
  case cue => exact .inl (runCue_outcome hb body)
  case crev => exact .inl (runCrev_outcome hb body)
  case clip => exact thenPump_ends hb (runClip_outcome hb body)
  case krev => exact thenPump_ends hb (runKrev_outcome hb body)
  case lvl => exact thenPump_ends hb (runLvl_outcome hb body)
  case adv => exact runAdv_ends body
  all_goals exact .inl (.refused rfl)

theorem runData_serves (hu : s.Serves j b u) (hc : u.slot j = .job c) (k : Kind) (body : List Byte) :
    s.Serves j b (runData k body j c u).s := by
  rcases runData_ends hc k body with h | ⟨x, h, -, he⟩ | ⟨w, -, he⟩
  · exact h.serves hu hc
  · exact he ▸ pumpSegments_serves (h.serves hu hc) _
  · exact he ▸ pump_serves (hu.set ((hu.runsAs (job?_of_slot u j hc)).raiseW w))

theorem runData_refused (hb : s.slot j = .job b) {k : Kind} {body : List Byte} (h : (runData k body j b s).st.refuses = true) :
    (runData k body j b s).s.slot j = .job b := by
  have hy := runData_ends hb k body
  generalize runData k body j b s = y at h hy
  rcases hy with (⟨he, -⟩ | ⟨he, -⟩ | ⟨hst, -⟩) | ⟨x, -, hst, -⟩ | ⟨w, hst, -⟩
  · exact he ▸ hb
  · exact he ▸ hb
  all_goals exact absurd (h.symm.trans hst) nofun

/-- A latched record handled. -/
theorem processLatched_eq {x : LatchRun} {rec : LinkRecord} {k : Kind} (hc : x.s.slot j = .job c)
    (hk : Kind.ofCode rec.kind = some k) : processLatched j x rec = if (runData k rec.body j c x.s).st.refuses = true then
      ⟨(runData k rec.body j c x.s).s.mapJob j fun b => b.report .latchRefused 1, x.processed + 1, x.refused + 1⟩
      else ⟨(runData k rec.body j c x.s).s, x.processed + 1, x.refused⟩ := by
  rw [processLatched, job?_of_slot x.s j hc, hk]

theorem processLatched_of_refused {x : LatchRun} {rec : LinkRecord} {k : Kind} (hc : x.s.slot j = .job c)
    (hk : Kind.ofCode rec.kind = some k) (h : (runData k rec.body j c x.s).st.refuses = true) : processLatched j x rec =
      ⟨(runData k rec.body j c x.s).s.setJob j (c.report .latchRefused 1), x.processed + 1, x.refused + 1⟩ := by
  refine (processLatched_eq hc hk).trans ((if_pos h).trans ?_)
  rw [State.mapJob, runData_refused hc h]

/-- What a part of the latch leaves: the job runs on, and each record counts. -/
theorem processLatch_serves {l : List LinkRecord} (hl : ∀ rec ∈ l, ∃ k, Kind.ofCode rec.kind = some k) {x y : LatchRun}
    (h : s.Serves j b x.s) (hx : l.foldl (processLatched j) x = y) :
    s.Serves j b y.s ∧ y.processed = x.processed + l.length ∧ y.refused ≤ x.refused + l.length := by
  induction l generalizing x with
  | nil =>
    subst hx
    exact ⟨h, rfl, le_rfl⟩
  | cons rec l ih =>
    obtain ⟨k, hk⟩ := hl rec (.head l)
    obtain ⟨c, hc, hrun⟩ := h.slot
    have hy := runData_serves h hc k rec.body
    have hstep : s.Serves j b (processLatched j x rec).s ∧ (processLatched j x rec).processed = x.processed + 1 ∧
        (processLatched j x rec).refused ≤ x.refused + 1 := by
      by_cases hr : (runData k rec.body j c x.s).st.refuses = true
      · rw [processLatched_of_refused hc hk hr]
        exact ⟨hy.set (hrun.works (c.report_works ..)), rfl, le_rfl⟩
      · rw [processLatched_eq hc hk, if_neg hr]
        exact ⟨hy, rfl, Nat.le_succ _⟩
    obtain ⟨hs, hp, hr⟩ := hstep
    obtain ⟨hs', hp', hr'⟩ := ih (fun r h => hl r (.tail _ h)) hs hx
    rw [hp, Nat.succ_add_eq_add_succ] at hp'
    exact ⟨hs', hp', hr'.trans ((Nat.add_le_add_right hr _).trans_eq (Nat.succ_add_eq_add_succ _ _))⟩

end

theorem exec_rsum {s : State} {r : Req} {j : Fin 8} {b : Job} {x : LatchRun} (hask : s.asked r j b) (hst : b.state = .held)
    (hbody : r.body = [])
    (hx : b.latch.foldl (processLatched j) ⟨s.setJob j { b with state := .running, latch := [] }, 0, 0⟩ = x) :
    exec (.rsum r) s = (x.s.pump j).answered .rsum r .ok (beBytes 1 x.processed ++ beBytes 1 x.refused) := by
  refine exec_of_taken (k := .rsum) (handle_rsum r s) hask (ok := (· == .held)) (by rw [hst]; rfl) ?_
  rw [show parseEmpty (requestRecord Kind.rsum.code r).body = some () from congrArg parseEmpty hbody]
  subst hx
  rfl

/-- ADV's reply carries the W its job then has. -/
theorem exec_adv {s : State} {r : Req} {j : Fin 8} {b : Job} (hask : s.asked r j b) (hst : b.state = .running) :
    exec (requestOf .adv r) s = (runData .adv r.body j b s).s.answered .adv r (runData .adv r.body j b s).st
      (match (runData .adv r.body j b s).s.job? j with | some d => optBytes 4 d.w | none => []) := by
  obtain ⟨hready, hj, hb⟩ := hask
  have hself : s.Serves j b s :=
    ⟨abort_of_ready hready, rfl, b, congrArg State.slots (setJob_same hb).symm, hst, rfl, rfl⟩
  obtain ⟨d, hd, -⟩ := (runData_serves hself hb .adv r.body).slot
  refine exec_requestOf_answered hready ?_
  have hrun := dataRequest_of_running (k := .adv) (opened := .noAnchor) (wait := noAnchor)
    (r := requestRecord Kind.adv.code r) hj hb hst
  have hw := watermarkOf_of_job (r := requestRecord Kind.adv.code r) hj (job?_of_slot _ j hd)
  rw [job?_of_slot _ j hd]
  exact congrArg (answer _) ((congrArg (fun x : Result => (⟨x.s, x.st, optBytes 4 (x.s.watermarkOf _)⟩ : Result)) hrun).trans
    (congrArg (fun w => (⟨_, _, optBytes 4 w⟩ : Result)) hw))

/-- What RSUM leaves, with the latch worked off in x. -/
theorem rsum_serves {s : State} {r : Req} {j : Fin 8} {b : Job} {x : LatchRun} (hask : s.asked r j b) (hst : b.state = .held)
    (hbody : r.body = []) (hl : ∀ rec ∈ b.latch, ∃ k, Kind.ofCode rec.kind = some k)
    (hx : b.latch.foldl (processLatched j) ⟨s.setJob j { b with state := .running, latch := [] }, 0, 0⟩ = x) :
    exec (.rsum r) s = (x.s.pump j).answered .rsum r .ok (beBytes 1 b.latch.length ++ beBytes 1 x.refused) ∧
      x.processed = b.latch.length ∧ x.refused ≤ b.latch.length ∧
      (∃ c, (x.s.pump j).job? j = some c ∧ c.state = .running ∧ c.latch = [] ∧ c.tb = b.tb) ∧
      (∀ k, k ≠ j → (x.s.pump j).slot k = s.slot k) ∧ (x.s.pump j).parkSerial = s.parkSerial := by
  have hlatch := processLatch_serves (b := { b with latch := [] }) hl (serves_setJob (abort_of_ready hask.1) ⟨rfl, rfl, rfl⟩) hx
  have hp : x.processed = b.latch.length := hlatch.2.1.trans (Nat.zero_add _)
  have hu := pump_serves hlatch.1
  exact ⟨hp ▸ exec_rsum hask hst hbody hx, hp, hlatch.2.2.trans_eq (Nat.zero_add _), hu.job, fun _ => hu.other, hu.serial⟩

/-- Settles O27: the latch folded record by record, and a data record of each kind at a RUNNING job. -/
theorem rsumResumesJob : Obligations.RsumResumesJob := by
  refine ⟨fun s r j b hask hst hbody hl => rsum_serves hask hst hbody hl rfl,
    fun j x rec c k hc hk => ⟨fun h => ?_, fun h => ?_⟩, fun k r s j c hdata hask hst => ?_⟩
  · exact ⟨c, runData_refused hc (decide_eq_true h), processLatched_of_refused hc hk (decide_eq_true h)⟩
  · exact (processLatched_eq hc hk).trans (if_neg fun hr => Nat.not_le.mpr h (of_decide_eq_true hr))
  · by_cases hadv : k = .adv
    · subst hadv
      exact exec_adv hask hst
    · obtain ⟨opened, wait, hhandle⟩ := handle_of_isData hdata hadv r s
      intro y
      rw [if_neg hadv]
      exact exec_running hask hst hhandle

end Sys2Proof.Machine
end
